-- ==== Sys2Proof/Word.lean ====
section
/-! DEFINITION. The block's data widths: a register is 32 bits (10_state.md R21) and a byte of BUF is 8 bits (R41). -/

namespace Sys2Proof

/-- A 32-bit register, command word or POS coordinate word (10_state.md R21, R42). -/
abbrev Word := BitVec 32

/-- One byte of BUF (10_state.md R41). -/
abbrev Byte := BitVec 8

end Sys2Proof
end

