-- ==== Sys2Proof/Syntax.lean ====
section
/-! DEFINITION. The command set: the eight rows of opcode_table.json (30_encoding.md R81). A command word has no operand
fields (R82), so no constructor has an argument. -/

namespace Sys2Proof

/-- The eight commands (30_encoding.md R81). -/
inductive Instr where
  /-- Encode one position into the 32-bit form (40_single_int_codec.md R103). -/
  | pack32
  /-- Decode a 32-bit packed word (R104). -/
  | unpack32
  /-- Encode one position into the 16-bit split form (41_half_split_codec.md R122). -/
  | pack16h
  /-- Decode a 16-bit split value with its half flag (R123). -/
  | unpack16h
  /-- Write a bit field into BUF (42_bit_buffer.md R143). -/
  | wrbits
  /-- Read a bit field from BUF (R144). -/
  | rdbits
  /-- Encode POS into BUF as a bitstream (43_bulk_bitstream.md R163). -/
  | packm
  /-- Decode the bitstream in BUF into POS (R164). -/
  | unpackm
  deriving DecidableEq, Repr

end Sys2Proof
end

