-- ==== Sys2Proof/WellFormed.lean ====
section
/-! DEFINITION. What is well formed: an instruction, a command word (30_encoding.md R83) and the parameters (00_scope.md R7). -/

namespace Sys2Proof

/-- Every term of `Instr` is well formed: a command has no operand fields that could be out of range (30_encoding.md R82). -/
def Instr.wellFormed : Instr → Bool
  | .pack32 => true
  | .unpack32 => true
  | .pack16h => true
  | .unpack16h => true
  | .wrbits => true
  | .rdbits => true
  | .packm => true
  | .unpackm => true

/-- The legal command words, said without the decoder: bits 31:4 are zero and OP is 1 to 8 (30_encoding.md R83). -/
def commandWord (w : Word) : Bool :=
  (w &&& 0xFFFFFFF0#32) == 0#32 && decide (1 ≤ w.toNat) && decide (w.toNat ≤ 8)

/-- The values R7 allows for the capacities: 1 ≤ BUF_CAP ≤ 0xF000 and 1 ≤ POS_CAP ≤ 0x0FFF_F000. -/
def paramsOk (bufCap posCap : Word) : Bool :=
  decide (1 ≤ bufCap.toNat) && decide (bufCap.toNat ≤ 0xF000) &&
    decide (1 ≤ posCap.toNat) && decide (posCap.toNat ≤ 0x0FFFF000)

end Sys2Proof
end

