-- ==== Sys2Proof/Decode.lean ====
section
/-! DEFINITION. The decoder of command words (30_encoding.md R80), total, rejecting by name, and the encoder beside it. -/

namespace Sys2Proof

/-- Why a word is no command (30_encoding.md R80, R83); either way the block raises ILLEGAL_CMD. -/
inductive Reject where
  /-- Some bit of MBZ (bits 31:4) is 1. -/
  | mbzSet
  /-- OP is 0x0 or 0x9 to 0xF. -/
  | opcode (op : Nat)
  deriving DecidableEq, Repr

/-- OP, bits 3:0 of a command word (30_encoding.md R80). -/
def opField (w : Word) : Nat := (w.extractLsb' 0 4).toNat

/-- MBZ, bits 31:4 of a command word (30_encoding.md R80). -/
def mbzField (w : Word) : Nat := (w.extractLsb' 4 28).toNat

/-- The opcode map (30_encoding.md R81). -/
def ofOpcode (op : Nat) : Except Reject Instr :=
  match op with
  | 0x1 => .ok .pack32
  | 0x2 => .ok .unpack32
  | 0x3 => .ok .pack16h
  | 0x4 => .ok .unpack16h
  | 0x5 => .ok .wrbits
  | 0x6 => .ok .rdbits
  | 0x7 => .ok .packm
  | 0x8 => .ok .unpackm
  | op => .error (.opcode op)

/-- The whole decoder (30_encoding.md R80, R84): MBZ first, then OP. -/
def decode (w : Word) : Except Reject Instr :=
  if mbzField w = 0 then ofOpcode (opField w) else .error .mbzSet

/-- The full 32-bit word that selects the command (30_encoding.md R81). -/
def encode : Instr → Word
  | .pack32 => 0x00000001#32
  | .unpack32 => 0x00000002#32
  | .pack16h => 0x00000003#32
  | .unpack16h => 0x00000004#32
  | .wrbits => 0x00000005#32
  | .rdbits => 0x00000006#32
  | .packm => 0x00000007#32
  | .unpackm => 0x00000008#32

/-- The command word whose low `nbits` bits are those of `w`, the others zero; `none` where that is no 32-bit word. -/
def tableWord (nbits w : Nat) : Option Word :=
  if w % 2 ^ nbits < 2 ^ 32 then some (BitVec.ofNat 32 (w % 2 ^ nbits)) else none

/-- The host's view of the decoder: the command that the bits of a row of opcode_table.json select, bit 0 the least
significant. A command is one 32-bit word (30_encoding.md R80), so no byte order enters. -/
def decodeTableWord (nbits w : Nat) : Option Instr :=
  match tableWord nbits w with
  | none => none
  | some v =>
    match decode v with
    | .ok i => some i
    | .error _ => none

end Sys2Proof
end

