-- ==== Sys2Proof/Config.lean ====
section
/-! DEFINITION. What the spec leaves to the implementation (00_scope.md R7): the values `State.reset` gives the OPEN
parameters, and the free values, which nothing constrains. -/

namespace Sys2Proof.Config

/-- BUF_CAP in `State.reset` only. DESIGN CHOICE (log 1): R7 leaves it open and says that the test vectors assume 64. Every
step reads the capacity from the state, never from here. -/
def bufCap : Word := 64#32

/-- POS_CAP in `State.reset` only. DESIGN CHOICE (log 1): R7 leaves it open and says that the test vectors assume 16. -/
def posCap : Word := 16#32

/-- BLOCK_BASE in `State.reset` only. DESIGN CHOICE (log 2): R7 calls it platform-defined. -/
def blockBase : Nat := 0

/-- BUF_INIT and POS_INIT (R7, 70_reset_and_hazards.md R241): the byte that window offset `offset` holds after reset number
`epoch`, until it is written. A free value (log 3). -/
opaque memInit (epoch offset : Nat) : Byte

/-- What the `n`-th draw answers when it is a 32-bit read while BUSY (R246). A free value (log 5). -/
opaque busyWord (n : Nat) : Word

/-- What the `n`-th draw answers when it is a read of a BUF byte while BUSY (R246). A free value (log 5). -/
opaque busyByte (n : Nat) : Byte

end Sys2Proof.Config
end

