-- ==== Sys2Proof/Machine/State.lean ====
section
/-! DEFINITION. The state: every register, hidden register and memory the spec gives the block (10_state.md), the host agent's
own data, and the reset state. All plain data. -/

namespace Sys2Proof.Machine

/-- The cause codes that are ever written to STATUS.CAUSE (10_state.md R26, 60_exceptions.md R201). -/
inductive Cause where
  | none
  | range
  | bounds
  | illegalCmd
  | illegalArg
  | capacity
  deriving DecidableEq, Repr

/-- The field codes of a RANGE error, STATUS.FIELD (10_state.md R27). -/
inductive FieldCode where
  | none
  | x
  | y
  | z
  deriving DecidableEq, Repr

/-- The registers of the window's register range (10_state.md R21). -/
inductive Reg where
  | cmd
  | status
  | xIn
  | yIn
  | zIn
  | packed
  | half
  | xOut
  | yOut
  | zOut
  | bitOffset
  | numBits
  | bitval
  | count
  | bufLen
  | errValue
  | errIndex
  | bufCap
  | posCap
  deriving DecidableEq, Repr

/-- One bus transaction of the host: `size` bytes at a host address; a write carries its data in the low bits of `data`
(20_memory.md R60 to R64). Shapes the block does not admit can be written here: R64 says what becomes of them. -/
inductive Access where
  | read (addr size : Nat)
  | write (addr size : Nat) (data : Word)
  deriving DecidableEq, Repr

/-- One operation of the host's program (30_encoding.md R85). -/
inductive HostOp where
  | access (a : Access)
  /-- Repeat a read of STATUS until BUSY reads 0. -/
  | wait
  deriving DecidableEq, Repr

/-- A value the host's program noted from a read (30_encoding.md R85, `lw` and `lb`). -/
inductive Noted where
  | word (w : Word)
  | byte (b : Byte)
  deriving DecidableEq, Repr

/-- Who moves: the host, the block, or the platform's reset (10_state.md R20, 70_reset_and_hazards.md R240). -/
inductive Turn where
  | host
  | block
  | reset
  deriving DecidableEq, Repr

/-- Bytes that have been written since reset, by window offset (20_memory.md R60): offsets strictly rise (`Memory.wf`). An
offset that is not listed still holds its reset draw (70_reset_and_hazards.md R241; log 3). -/
abbrev Memory := List Host.Cell

/-- The state of the block, its two memories, and the host agent. -/
structure State where
  /-- PENDING (R43): `none` or the latched command word. STATUS.BUSY is `pending.isSome` (R24). -/
  pending : Option Word
  /-- STATUS.ERR (R25). -/
  err : Bool
  /-- STATUS.CAUSE (R26). -/
  cause : Cause
  /-- STATUS.FIELD (R27). -/
  field : FieldCode
  /-- STATUS.FAULT_SEEN (R28). -/
  faultSeen : Bool
  /-- X_IN (R30). -/
  xIn : Word
  /-- Y_IN (R30). -/
  yIn : Word
  /-- Z_IN (R30). -/
  zIn : Word
  /-- PACKED (R31). -/
  packed : Word
  /-- HALF bit 0, isUpperHalf (R32). -/
  half : Bool
  /-- X_OUT (R33). -/
  xOut : Word
  /-- Y_OUT (R33). -/
  yOut : Word
  /-- Z_OUT (R33). -/
  zOut : Word
  /-- BIT_OFFSET (R34). -/
  bitOffset : Word
  /-- NUM_BITS (R35). -/
  numBits : Word
  /-- BITVAL (R36). -/
  bitval : Word
  /-- COUNT (R37). -/
  count : Word
  /-- BUF_LEN (R38). -/
  bufLen : Word
  /-- ERR_VALUE (R39). -/
  errValue : Word
  /-- ERR_INDEX (R39). -/
  errIndex : Word
  /-- BUF_CAP_REG, the parameter BUF_CAP (R40, 00_scope.md R7). -/
  bufCap : Word
  /-- POS_CAP_REG, the parameter POS_CAP (R40, R7). -/
  posCap : Word
  /-- BUF and POS (R41, R42), by window offset. -/
  mem : Memory
  /-- BLOCK_BASE (R7), the host address of window offset 0. -/
  blockBase : Nat
  /-- How many resets have been; names the reset draw (log 4). The model's own. -/
  epoch : Nat
  /-- How many reads have drawn a value while BUSY (log 5). The model's own. -/
  draws : Nat
  /-- The host's program, what is left of it (R44; log 8). -/
  hostOps : List HostOp
  /-- Who moves next, as far as it is laid down (log 6). The model's own. -/
  schedule : List Turn
  /-- What the host's reads returned, newest first (log 8). -/
  noted : List Noted
  deriving DecidableEq, Repr

/-- The faults of the model. The block itself has none: every command ends in a completion (60_exceptions.md R200). -/
inductive Fault where
  /-- Raised by the host's turn: an access to a host address outside the block's 32-bit window (20_memory.md R60), where the
  spec places nothing. Safe (log 11). -/
  | outsideWindow
  deriving DecidableEq, Repr

/-- The refusals of the model: the spec says that the host has no such step (20_memory.md R64, 70_reset_and_hazards.md R245). -/
inductive Refusal where
  /-- Raised by no arm of `exec`: every command has its meaning. Safe. -/
  | notModelled (mnemonic : String)
  /-- Raised by the host's turn: a write while STATUS.BUSY = 1 (R245). Safe. -/
  | writeWhileBusy
  /-- Raised by the host's turn: an access to a reserved offset (R64). Safe. -/
  | reservedOffset
  /-- Raised by the host's turn: an access that crosses from one range of R60 into another (R64). Safe. -/
  | crossesRange
  /-- Raised by the host's turn: a register or POS access that is not an aligned 32-bit access (R64). Safe. -/
  | notAlignedWord
  /-- Raised by the host's turn: a BUF access that is not one byte wide (R64). Safe. -/
  | notOneByte
  deriving DecidableEq, Repr

/-- The state after reset for given parameters (70_reset_and_hazards.md R240, R241), with nothing asked of the block and no
host program loaded (R242; log 8). -/
def State.resetWith (bufCap posCap : Word) (blockBase : Nat) : State where
  pending := none
  err := false
  cause := .none
  field := .none
  faultSeen := false
  xIn := 0#32
  yIn := 0#32
  zIn := 0#32
  packed := 0#32
  half := false
  xOut := 0#32
  yOut := 0#32
  zOut := 0#32
  bitOffset := 0#32
  numBits := 0#32
  bitval := 0#32
  count := 0#32
  bufLen := 0#32
  errValue := 0#32
  errIndex := 0#32
  bufCap := bufCap
  posCap := posCap
  mem := []
  blockBase := blockBase
  epoch := 0
  draws := 0
  hostOps := []
  schedule := []
  noted := []

/-- The machine right after reset. The parameters' values are the model's choice (log 1, 2). -/
def State.reset : State := State.resetWith Config.bufCap Config.posCap Config.blockBase

end Sys2Proof.Machine
end

