-- ==== Sys2Proof/Machine/Operands.lean ====
section
/-! DEFINITION. Operand forms: the signed reading of coordinates, the widenings of results (00_scope.md R10), and positions. -/

namespace Sys2Proof.Machine

/-- `s32(v)`: a 32-bit pattern read as two's complement (00_scope.md R10). -/
def s32 (v : Word) : Int := v.toInt

/-- `u32(i)`: the 32-bit pattern of an integer, i mod 2^32 (R10). `sext_32` of a signed value is this same pattern (R10). -/
def u32 (i : Int) : Word := BitVec.ofInt 32 i

/-- `zext_32(v)`: a narrower non-negative field widened without changing its value (R10). -/
def zext32 (v : Nat) : Word := BitVec.ofNat 32 v

/-- A triple of integers, valid or not (00_scope.md R13). -/
structure Coord where
  x : Int
  y : Int
  z : Int
  deriving DecidableEq, Repr

/-- `valid(x, y, z)`: the source's invariant of a Position (00_scope.md R13). -/
abbrev Coord.valid (c : Coord) : Prop :=
  (0 ≤ c.x ∧ c.x ≤ 15) ∧ (0 ≤ c.z ∧ c.z ≤ 15) ∧ (-64 ≤ c.y ∧ c.y ≤ 319)

/-- The position that PACK32 and PACK16H read, each coordinate through `s32` (30_encoding.md R82). -/
def State.inputCoord (s : State) : Coord := ⟨s32 s.xIn, s32 s.yIn, s32 s.zIn⟩

end Sys2Proof.Machine
end

