-- ==== Sys2Proof/Machine/Flags.lean ====
section
/-! DEFINITION. STATUS and the reports that a completion records: the cause and field codes (10_state.md R23 to R29,
60_exceptions.md R201) and one report per cause. -/

namespace Sys2Proof.Machine

/-- What a command's end reports: cause C, field code f, value v and index i (00_scope.md R12, 60_exceptions.md R208). -/
structure Report where
  cause : Cause
  field : FieldCode
  value : Word
  index : Word
  deriving DecidableEq, Repr

/-- Success: C = NONE and f = v = i = 0 (60_exceptions.md R208). -/
def Report.success : Report := ⟨.none, .none, 0#32, 0#32⟩

/-- RANGE on field `f`, with the offending coordinate and the position's index (60_exceptions.md R201, R202). -/
def Report.range (f : FieldCode) (v : Int) (i : Nat) : Report := ⟨.range, f, u32 v, zext32 i⟩

/-- BOUNDS, with `u32` of the end bit requested (R201, R203). -/
def Report.bounds (endBit : Nat) : Report := ⟨.bounds, .none, u32 endBit, 0#32⟩

/-- ILLEGAL_CMD, with the whole command word (R201, R204). -/
def Report.illegalCmd (w : Word) : Report := ⟨.illegalCmd, .none, w, 0#32⟩

/-- ILLEGAL_ARG, with NUM_BITS (R201, R205). -/
def Report.illegalArg (numBits : Word) : Report := ⟨.illegalArg, .none, numBits, 0#32⟩

/-- CAPACITY, with COUNT (R201, R206). -/
def Report.capacity (count : Word) : Report := ⟨.capacity, .none, count, 0#32⟩

/-- Whether a report is an error: C ≠ NONE (R208). -/
def Report.isError (r : Report) : Bool := decide (r.cause ≠ .none)

/-- The code of a cause in STATUS.CAUSE (60_exceptions.md R201). -/
def Cause.code : Cause → Nat
  | .none => 0
  | .range => 1
  | .bounds => 2
  | .illegalCmd => 3
  | .illegalArg => 4
  | .capacity => 5

/-- The code of a field in STATUS.FIELD (10_state.md R27). -/
def FieldCode.code : FieldCode → Nat
  | .none => 0
  | .x => 1
  | .y => 2
  | .z => 3

/-- STATUS.BUSY: exactly when PENDING holds a command (10_state.md R24, R43). -/
def State.busy (s : State) : Bool := s.pending.isSome

/-- STATUS as the host reads it: BUSY 0, ERR 1, CAUSE 4:2, FIELD 6:5, FAULT_SEEN 7, the rest 0 (10_state.md R23, R29). -/
def State.statusWord (s : State) : Word :=
  BitVec.ofNat 32
    (s.busy.toNat + 2 * s.err.toNat + 4 * s.cause.code + 32 * s.field.code + 128 * s.faultSeen.toNat)

/-- HALF as the host reads it: bit 0 the flag, bits 31:1 zero (10_state.md R32). -/
def State.halfWord (s : State) : Word := BitVec.ofNat 32 s.half.toNat

end Sys2Proof.Machine
end

