-- ==== Sys2Proof/Machine/Ops.lean ====
section
/-! DEFINITION. The named operations: memory (20_memory.md), the writes of result registers, the completion that ends every
command (60_exceptions.md R208), and reset (70_reset_and_hazards.md R240). -/

namespace Sys2Proof.Machine

/-! ### Memory -/

/-- The byte written at offset `a` since reset, if any. -/
def Memory.lookup : Memory → Nat → Option Byte
  | [], _ => none
  | (k, b) :: m, a => if k = a then some b else Memory.lookup m a

/-- Write byte `b` at offset `a`, keeping the offsets in rising order. -/
def Memory.store : Memory → Nat → Byte → Memory
  | [], a, b => [(a, b)]
  | (k, c) :: m, a, b =>
    if a < k then (a, b) :: (k, c) :: m
    else if a = k then (a, b) :: m
    else (k, c) :: Memory.store m a b

/-- The canonical form: offsets strictly rise. An unlisted offset stores nothing, so no entry equals what it stores (log 3). -/
abbrev Memory.wf (m : Memory) : Prop := m.Pairwise (fun c d => c.1 < d.1)

/-- Write consecutive bytes from offset `a` on. -/
def Memory.storeBytes : Memory → Nat → List Byte → Memory
  | m, _, [] => m
  | m, a, b :: bs => Memory.storeBytes (Memory.store m a b) (a + 1) bs

/-- The four bytes in which `mem` holds a POS word, least significant first (log 10). -/
def wordBytes (w : Word) : List Byte :=
  [w.extractLsb' 0 8, w.extractLsb' 8 8, w.extractLsb' 16 8, w.extractLsb' 24 8]

/-- Write the POS word at offset `a`. -/
def Memory.storeWord (m : Memory) (a : Nat) (w : Word) : Memory := Memory.storeBytes m a (wordBytes w)

/-- The byte at window offset `a`: what was written there last since reset, else the reset draw (70_reset_and_hazards.md R241). -/
def State.byteAt (s : State) (a : Nat) : Byte := (Memory.lookup s.mem a).getD (Config.memInit s.epoch a)

/-- The POS word at offset `a` (log 10). -/
def State.wordAt (s : State) (a : Nat) : Word :=
  s.byteAt (a + 3) ++ s.byteAt (a + 2) ++ s.byteAt (a + 1) ++ s.byteAt a

/-- The offset of BUF byte `i` (20_memory.md R60). -/
def bufAddr (i : Nat) : Nat := 0x1000 + i

/-- The offset of word `k` of POS entry `j` (20_memory.md R60, R63). -/
def posAddr (j k : Nat) : Nat := 0x10000 + 16 * j + 4 * k

/-- `BUF[i]` (00_scope.md R11). -/
def State.bufByte (s : State) (i : Nat) : Byte := s.byteAt (bufAddr i)

/-- `BUF[0..L-1]`. -/
def State.bufBytes (s : State) (len : Nat) : List Byte := (List.range len).map s.bufByte

/-- Word `k` of `POS[j]`; k = 0, 1, 2 are x, y, z (20_memory.md R63). -/
def State.posWord (s : State) (j k : Nat) : Word := s.wordAt (posAddr j k)

/-- `POS[j]`, each coordinate through `s32` (10_state.md R42). -/
def State.posCoord (s : State) (j : Nat) : Coord :=
  ⟨s32 (s.posWord j 0), s32 (s.posWord j 1), s32 (s.posWord j 2)⟩

/-- Write the decoded position `c` to entry `j`: zext x, sext y, zext z (43_bulk_bitstream.md R164). -/
def Memory.storePos (m : Memory) (j : Nat) (c : Coord) : Memory :=
  Memory.storeWord
    (Memory.storeWord (Memory.storeWord m (posAddr j 0) (zext32 c.x.toNat)) (posAddr j 1) (u32 c.y))
    (posAddr j 2) (zext32 c.z.toNat)

/-- Write consecutive entries from entry `j` on. -/
def Memory.storePositions : Memory → Nat → List Coord → Memory
  | m, _, [] => m
  | m, j, c :: cs => Memory.storePositions (Memory.storePos m j c) (j + 1) cs

/-! ### Writes of registers and memory by commands -/

/-- `reg[PACKED] <- p` (10_state.md R31). -/
def State.setPacked (s : State) (p : Word) : State := { s with packed := p }

/-- `reg[HALF] <- h` (10_state.md R32). -/
def State.setHalf (s : State) (h : Bool) : State := { s with half := h }

/-- X_OUT and Z_OUT get `zext_32`, Y_OUT gets `sext_32` of a decoded position (10_state.md R33). -/
def State.setOut (s : State) (c : Coord) : State :=
  { s with xOut := zext32 c.x.toNat, yOut := u32 c.y, zOut := zext32 c.z.toNat }

/-- `reg[BITVAL] <- v` (10_state.md R36). -/
def State.setBitval (s : State) (v : Word) : State := { s with bitval := v }

/-- `reg[BUF_LEN] <- l` (10_state.md R38). -/
def State.setBufLen (s : State) (l : Word) : State := { s with bufLen := l }

/-- Commit a staged memory. -/
def State.setMem (s : State) (m : Memory) : State := { s with mem := m }

/-! ### The end of a command -/

/-- Completion (60_exceptions.md R208): the one operation that reports a command's end, whether it succeeded or raised. -/
def State.complete (s : State) (r : Report) : State :=
  { s with
    err := r.isError
    cause := r.cause
    field := r.field
    faultSeen := s.faultSeen || r.isError
    errValue := r.value
    errIndex := r.index
    pending := none }

/-- End a command that either staged the state `t` with all its writes or raised a report: a raise discards what was staged
(00_scope.md R12, 60_exceptions.md R200, R209). -/
def State.finish (s : State) : Except Report State → State
  | .ok t => t.complete .success
  | .error r => s.complete r

/-! ### Latching a command, the two agents' bookkeeping, reset -/

/-- A CMD write while not busy: latch the word, which sets BUSY (10_state.md R22). -/
def State.latch (s : State) (w : Word) : State := { s with pending := some w }

/-- The turn is taken: the rest of the schedule remains (log 6). -/
def State.popTurn (s : State) : State := { s with schedule := s.schedule.tail }

/-- The host's program goes on with `ops`. -/
def State.setHostOps (s : State) (ops : List HostOp) : State := { s with hostOps := ops }

/-- The host's program notes the value that it read (30_encoding.md R85). -/
def State.note (s : State) (v : Noted) : State := { s with noted := v :: s.noted }

/-- One more value has been drawn (log 5). -/
def State.countDraw (s : State) : State := { s with draws := s.draws + 1 }

/-- The reset event (70_reset_and_hazards.md R240, R241): every register as R240 says, a pending command cancelled, the
memories drawn anew; the parameters stay (R240), and the host agent is not the block's to reset (log 9). -/
def State.blockReset (s : State) : State :=
  { State.resetWith s.bufCap s.posCap s.blockBase with
    epoch := s.epoch + 1
    draws := s.draws
    hostOps := s.hostOps
    schedule := s.schedule
    noted := s.noted }

end Sys2Proof.Machine
end

