-- ==== Sys2Proof/Machine/BitBuffer.lean ====
section
/-! DEFINITION. The bit-buffer primitives (42_bit_buffer.md): `writeBits`, `readBits`, `bitCheck`, and the commands WRBITS and
RDBITS. -/

namespace Sys2Proof.Machine

/-- Byte `i` of a byte array, as a number. -/
def byteOf (B : List Byte) (i : Nat) : Nat := (B.getD i 0#8).toNat

/-- `BufBit(p)` of a byte array (20_memory.md R65). -/
def bufBit (B : List Byte) (p : Nat) : Bool := (B.getD (p / 8) 0#8).getLsbD (p % 8)

/-- How many bits of a field go into the byte of bit position `pos`: min(remaining, 8 - bitIdx) (42_bit_buffer.md R140). -/
def chunkWidth (pos remaining : Nat) : Nat := min remaining (8 - pos % 8)

/-- One touched byte of `writeBits`: clear the target bits with a mask, then OR in the new bits (42_bit_buffer.md R140). -/
def mergeByte (old bitIdx k val : Nat) : Byte :=
  let mask := ((1 <<< k) - 1) <<< bitIdx
  BitVec.ofNat 8 ((old &&& (0xFF - mask)) ||| ((val &&& ((1 <<< k) - 1)) <<< bitIdx))

/-- The loop of `writeBits` (42_bit_buffer.md R140). Each round writes at least one bit, so `remaining` rounds are enough. -/
def writeLoop : Nat → List Byte → Nat → Nat → Nat → List Byte
  | 0, B, _, _, _ => B
  | fuel + 1, B, pos, val, remaining =>
    if remaining = 0 then B
    else
      let k := chunkWidth pos remaining
      writeLoop fuel (B.set (pos / 8) (mergeByte (byteOf B (pos / 8)) (pos % 8) k val)) (pos + k) (val >>> k)
        (remaining - k)

/-- `writeBits(B, o, v, n)` (42_bit_buffer.md R140). -/
def writeBits (B : List Byte) (o v n : Nat) : List Byte := writeLoop n B o v n

/-- The loop of `readBits` (42_bit_buffer.md R141), `got` bits of `n` being in `result`. -/
def readLoop : Nat → List Byte → Nat → Nat → Nat → Nat → Nat
  | 0, _, _, _, _, result => result
  | fuel + 1, B, n, pos, got, result =>
    if n ≤ got then result
    else
      let k := chunkWidth pos (n - got)
      let chunk := (byteOf B (pos / 8) >>> (pos % 8)) &&& ((1 <<< k) - 1)
      readLoop fuel B n (pos + k) (got + k) (result ||| (chunk <<< got))

/-- `readBits(B, o, n)` (42_bit_buffer.md R141). -/
def readBits (B : List Byte) (o n : Nat) : Nat := readLoop n B n o 0 0

/-- `bitCheck(o, n, L)` (42_bit_buffer.md R142), in exact arithmetic. -/
def bitCheck (o n len : Word) : Except Report Unit :=
  if 32 < n.toNat then .error (.illegalArg n)
  else if 8 * len.toNat < o.toNat + n.toNat then .error (.bounds (o.toNat + n.toNat))
  else .ok ()

/-- The bytes that hold at least one bit of [o, o+n) (20_memory.md R70): how many there are, the first being o div 8. -/
def touchedCount (o n : Nat) : Nat := if n = 0 then 0 else (o + n - 1) / 8 - o / 8 + 1

/-- What WRBITS stages (42_bit_buffer.md R143); only the touched bytes are written (20_memory.md R70). -/
def wrbitsEffect (s : State) : Except Report State :=
  match bitCheck s.bitOffset s.numBits s.bufLen with
  | .error r => .error r
  | .ok () =>
    let o := s.bitOffset.toNat
    let n := s.numBits.toNat
    let B := writeBits (s.bufBytes s.bufLen.toNat) o s.bitval.toNat n
    .ok (s.setMem (Memory.storeBytes s.mem (bufAddr (o / 8)) ((B.drop (o / 8)).take (touchedCount o n))))

/-- What RDBITS stages (42_bit_buffer.md R144). -/
def rdbitsEffect (s : State) : Except Report State :=
  match bitCheck s.bitOffset s.numBits s.bufLen with
  | .error r => .error r
  | .ok () =>
    .ok (s.setBitval (zext32 (readBits (s.bufBytes s.bufLen.toNat) s.bitOffset.toNat s.numBits.toNat)))

/-- WRBITS (42_bit_buffer.md R143). -/
def execWrbits (s : State) : Host.Outcome State Fault Refusal := .next (s.finish (wrbitsEffect s))

/-- RDBITS (42_bit_buffer.md R144). -/
def execRdbits (s : State) : Host.Outcome State Fault Refusal := .next (s.finish (rdbitsEffect s))

end Sys2Proof.Machine
end

