-- ==== Sys2Proof/Machine/SingleInt.lean ====
section
/-! DEFINITION. The single-integer codec (40_single_int_codec.md): the range check, `pack32`, `unpack32`, and the commands
PACK32 and UNPACK32. -/

namespace Sys2Proof.Machine

/-- Range check (40_single_int_codec.md R100): x, then z, then y; the first failing field is reported. -/
def checkRange (c : Coord) (i : Nat) : Except Report Unit :=
  if ¬ (0 ≤ c.x ∧ c.x ≤ 15) then .error (.range .x c.x i)
  else if ¬ (0 ≤ c.z ∧ c.z ≤ 15) then .error (.range .z c.z i)
  else if ¬ (-64 ≤ c.y ∧ c.y ≤ 319) then .error (.range .y c.y i)
  else .ok ()

/-- The word `x | (z << 4) | (yField << 8)` of both encoders (30_encoding.md R87, R88), on checked coordinates. -/
def packFields (x z yField : Int) : Nat := x.toNat ||| (z.toNat <<< 4) ||| (yField.toNat <<< 8)

/-- `pack32(x, y, z, i)` (40_single_int_codec.md R101). -/
def pack32 (c : Coord) (i : Nat) : Except Report Nat :=
  match checkRange c i with
  | .error r => .error r
  | .ok () => .ok (packFields c.x c.z (c.y + 64))

/-- `unpack32(p)` (40_single_int_codec.md R102). -/
def unpack32 (p : Nat) : Coord where
  x := ((p &&& 0xF : Nat) : Int)
  z := (((p >>> 4) &&& 0xF : Nat) : Int)
  y := (((p >>> 8) &&& 0x1FF : Nat) : Int) - 64

/-- What PACK32 stages (40_single_int_codec.md R103). -/
def pack32Effect (s : State) : Except Report State :=
  match pack32 s.inputCoord 0 with
  | .error r => .error r
  | .ok p => .ok (s.setPacked (zext32 p))

/-- PACK32 (40_single_int_codec.md R103). -/
def execPack32 (s : State) : Host.Outcome State Fault Refusal := .next (s.finish (pack32Effect s))

/-- UNPACK32 (40_single_int_codec.md R104). -/
def execUnpack32 (s : State) : Host.Outcome State Fault Refusal :=
  .next (s.finish (.ok (s.setOut (unpack32 s.packed.toNat))))

end Sys2Proof.Machine
end

