-- ==== Sys2Proof/Machine/Bulk.lean ====
section
/-! DEFINITION. The bulk bitstream codec (43_bulk_bitstream.md): `packMultiple`, `unpackMultiple`, and the commands PACKM and
UNPACKM. -/

namespace Sys2Proof.Machine

/-- L(N) = ceil(17·N / 8), the byte length of a bitstream of N positions (43_bulk_bitstream.md R160). -/
def bulkBytes (count : Nat) : Nat := (17 * count + 7) / 8

/-- The loop of `packMultiple`, in input order, `i` the index of the first position left (43_bulk_bitstream.md R161). -/
def packLoop : List Coord → Nat → List Byte → Except Report (List Byte)
  | [], _, B => .ok B
  | c :: cs, i, B =>
    match pack32 c i with
    | .error r => .error r
    | .ok v => packLoop cs (i + 1) (writeBits B (17 * i) v 17)

/-- `packMultiple(S)` (43_bulk_bitstream.md R161). -/
def packMultiple (S : List Coord) : Except Report (List Byte) :=
  packLoop S 0 (List.replicate (bulkBytes S.length) 0#8)

/-- `unpackMultiple(B, count)` (43_bulk_bitstream.md R162). -/
def unpackMultiple (B : List Byte) (count : Nat) : List Coord :=
  (List.range count).map (fun i => unpack32 (readBits B (17 * i) 17))

/-- What PACKM stages (43_bulk_bitstream.md R163). -/
def packmEffect (s : State) : Except Report State :=
  let N := s.count.toNat
  if s.posCap.toNat < N then .error (.capacity s.count)
  else if s.bufCap.toNat < bulkBytes N then .error (.capacity s.count)
  else
    match packMultiple ((List.range N).map s.posCoord) with
    | .error r => .error r
    | .ok B =>
      .ok ((s.setMem (Memory.storeBytes s.mem (bufAddr 0) B)).setBufLen (zext32 (bulkBytes N)))

/-- What UNPACKM stages (43_bulk_bitstream.md R164). -/
def unpackmEffect (s : State) : Except Report State :=
  let N := s.count.toNat
  if s.posCap.toNat < N then .error (.capacity s.count)
  else if 8 * s.bufLen.toNat < 17 * N then .error (.bounds (17 * N))
  else
    .ok (s.setMem (Memory.storePositions s.mem 0 (unpackMultiple (s.bufBytes s.bufLen.toNat) N)))

/-- PACKM (43_bulk_bitstream.md R163). -/
def execPackm (s : State) : Host.Outcome State Fault Refusal := .next (s.finish (packmEffect s))

/-- UNPACKM (43_bulk_bitstream.md R164). -/
def execUnpackm (s : State) : Host.Outcome State Fault Refusal := .next (s.finish (unpackmEffect s))

end Sys2Proof.Machine
end

