-- ==== Sys2Proof/Machine/HalfSplit.lean ====
section
/-! DEFINITION. The half-split 16-bit codec (41_half_split_codec.md): `packHalf`, `unpackHalf`, and the commands PACK16H and
UNPACK16H. -/

namespace Sys2Proof.Machine

/-- The tie-break `isUpperHalf = (y ≥ 128)` (41_half_split_codec.md R120). -/
def upperHalf (y : Int) : Bool := decide (128 ≤ y)

/-- The in-half offset: y - 128 in the upper half, y + 64 in the lower half (R120). -/
def halfOffset (y : Int) : Int := if upperHalf y then y - 128 else y + 64

/-- `packHalf(x, y, z)` (41_half_split_codec.md R120), with the offset guard that the check makes unreachable (D35). -/
def packHalf (c : Coord) : Except Report (Bool × Nat) :=
  match checkRange c 0 with
  | .error r => .error r
  | .ok () =>
    if ¬ (0 ≤ halfOffset c.y ∧ halfOffset c.y ≤ 255) then .error (.range .y c.y 0)
    else .ok (upperHalf c.y, packFields c.x c.z (halfOffset c.y))

/-- `unpackHalf(p16, upper)` (41_half_split_codec.md R121). -/
def unpackHalf (p : Nat) (upper : Bool) : Coord where
  x := ((p &&& 0xF : Nat) : Int)
  z := (((p >>> 4) &&& 0xF : Nat) : Int)
  y := if upper then 128 + (((p >>> 8) &&& 0xFF : Nat) : Int) else -64 + (((p >>> 8) &&& 0xFF : Nat) : Int)

/-- What PACK16H stages (41_half_split_codec.md R122). -/
def pack16hEffect (s : State) : Except Report State :=
  match packHalf s.inputCoord with
  | .error r => .error r
  | .ok (upper, p16) => .ok ((s.setPacked (zext32 p16)).setHalf upper)

/-- PACK16H (41_half_split_codec.md R122). -/
def execPack16h (s : State) : Host.Outcome State Fault Refusal := .next (s.finish (pack16hEffect s))

/-- UNPACK16H (41_half_split_codec.md R123): PACKED[15:0] and HALF[0]. -/
def execUnpack16h (s : State) : Host.Outcome State Fault Refusal :=
  .next (s.finish (.ok (s.setOut (unpackHalf (s.packed.extractLsb' 0 16).toNat s.half))))

end Sys2Proof.Machine
end

