-- ==== Sys2Proof/Machine/Dispatch.lean ====
section
/-! DEFINITION. The dispatch of commands to their meanings (30_encoding.md R81), one arm per command. -/

namespace Sys2Proof.Machine

/-- Execute one command, its completion included (10_state.md R43). -/
def exec (i : Instr) (s : State) : Host.Outcome State Fault Refusal :=
  match i with
  | .pack32 => Sys2Proof.Machine.execPack32 s
  | .unpack32 => Sys2Proof.Machine.execUnpack32 s
  | .pack16h => Sys2Proof.Machine.execPack16h s
  | .unpack16h => Sys2Proof.Machine.execUnpack16h s
  | .wrbits => Sys2Proof.Machine.execWrbits s
  | .rdbits => Sys2Proof.Machine.execRdbits s
  | .packm => Sys2Proof.Machine.execPackm s
  | .unpackm => Sys2Proof.Machine.execUnpackm s

end Sys2Proof.Machine
end

