-- ==== Sys2Proof/Machine/Window.lean ====
section
/-! DEFINITION. The host window (20_memory.md R60 to R64): what a host access reaches, register reads and writes
(10_state.md R21 to R40), and the busy protocol of accesses (70_reset_and_hazards.md R245, R246). -/

namespace Sys2Proof.Machine

/-- The offset of a register (10_state.md R21). -/
def Reg.offset : Reg → Nat
  | .cmd => 0x000
  | .status => 0x004
  | .xIn => 0x008
  | .yIn => 0x00C
  | .zIn => 0x010
  | .packed => 0x014
  | .half => 0x018
  | .xOut => 0x01C
  | .yOut => 0x020
  | .zOut => 0x024
  | .bitOffset => 0x028
  | .numBits => 0x02C
  | .bitval => 0x030
  | .count => 0x034
  | .bufLen => 0x038
  | .errValue => 0x03C
  | .errIndex => 0x040
  | .bufCap => 0x044
  | .posCap => 0x048

/-- The register at an offset (10_state.md R21). -/
def Reg.ofOffset : Nat → Option Reg
  | 0x000 => some .cmd
  | 0x004 => some .status
  | 0x008 => some .xIn
  | 0x00C => some .yIn
  | 0x010 => some .zIn
  | 0x014 => some .packed
  | 0x018 => some .half
  | 0x01C => some .xOut
  | 0x020 => some .yOut
  | 0x024 => some .zOut
  | 0x028 => some .bitOffset
  | 0x02C => some .numBits
  | 0x030 => some .bitval
  | 0x034 => some .count
  | 0x038 => some .bufLen
  | 0x03C => some .errValue
  | 0x040 => some .errIndex
  | 0x044 => some .bufCap
  | 0x048 => some .posCap
  | _ => none

/-- What a register reads as while the block is not busy; CMD reads 0 (10_state.md R21 to R40). -/
def State.readReg (s : State) : Reg → Word
  | .cmd => 0#32
  | .status => s.statusWord
  | .xIn => s.xIn
  | .yIn => s.yIn
  | .zIn => s.zIn
  | .packed => s.packed
  | .half => s.halfWord
  | .xOut => s.xOut
  | .yOut => s.yOut
  | .zOut => s.zOut
  | .bitOffset => s.bitOffset
  | .numBits => s.numBits
  | .bitval => s.bitval
  | .count => s.count
  | .bufLen => s.bufLen
  | .errValue => s.errValue
  | .errIndex => s.errIndex
  | .bufCap => s.bufCap
  | .posCap => s.posCap

/-- BUF_LEN is WARL: a host write of v sets it to min(v, BUF_CAP) (10_state.md R38). -/
def State.clampLen (s : State) (v : Word) : Word := if v.toNat ≤ s.bufCap.toNat then v else s.bufCap

/-- A host write of a register while the block is not busy (10_state.md R21 to R40): CMD latches a command (R22), "R"
registers and reserved bits ignore writes (R29, R32, R40), BUF_LEN is clamped (R38). -/
def State.writeReg (s : State) : Reg → Word → State
  | .cmd, v => s.latch v
  | .status, _ => s
  | .xIn, v => { s with xIn := v }
  | .yIn, v => { s with yIn := v }
  | .zIn, v => { s with zIn := v }
  | .packed, v => s.setPacked v
  | .half, v => s.setHalf (v.getLsbD 0)
  | .xOut, _ => s
  | .yOut, _ => s
  | .zOut, _ => s
  | .bitOffset, v => { s with bitOffset := v }
  | .numBits, v => { s with numBits := v }
  | .bitval, v => s.setBitval v
  | .count, v => { s with count := v }
  | .bufLen, v => s.setBufLen (s.clampLen v)
  | .errValue, _ => s
  | .errIndex, _ => s
  | .bufCap, _ => s
  | .posCap, _ => s

/-- What an admitted access reaches. -/
inductive Place where
  | reg (r : Reg)
  /-- BUF[i]. -/
  | buf (i : Nat)
  /-- Word k of POS[j]. -/
  | pos (j k : Nat)
  deriving DecidableEq, Repr

/-- The end of the register range (20_memory.md R60). -/
def regEnd : Nat := 0x4C

/-- The end of the BUF range (20_memory.md R60). -/
def State.bufEnd (s : State) : Nat := 0x1000 + s.bufCap.toNat

/-- The end of the POS range (20_memory.md R60). -/
def State.posEnd (s : State) : Nat := 0x10000 + 16 * s.posCap.toNat

/-- An aligned 32-bit access, the only one that registers and POS admit (20_memory.md R61, R63). -/
def alignedWord (off size : Nat) : Bool := decide (size = 4) && decide (off % 4 = 0)

/-- What an access of `size` bytes at window offset `off` reaches, or why the block does not admit it (20_memory.md R60 to
R64; the order in which several grounds are named is the model's, log 12). -/
def State.placeAt (s : State) (off size : Nat) : Host.Outcome Place Fault Refusal :=
  if off < regEnd then
    if regEnd < off + size then .refused .crossesRange
    else if alignedWord off size then
      match Reg.ofOffset off with
      | some r => .next (.reg r)
      | none => .refused .reservedOffset
    else .refused .notAlignedWord
  else if 0x1000 ≤ off ∧ off < s.bufEnd then
    if s.bufEnd < off + size then .refused .crossesRange
    else if size = 1 then .next (.buf (off - 0x1000))
    else .refused .notOneByte
  else if 0x10000 ≤ off ∧ off < s.posEnd then
    if s.posEnd < off + size then .refused .crossesRange
    else if alignedWord off size then .next (.pos ((off - 0x10000) / 16) ((off - 0x10000) / 4 % 4))
    else .refused .notAlignedWord
  else .refused .reservedOffset

/-- What an access at a host address reaches: the window's 2^32 offsets start at BLOCK_BASE (20_memory.md R60; log 11). -/
def State.locate (s : State) (addr size : Nat) : Host.Outcome Place Fault Refusal :=
  if s.blockBase ≤ addr ∧ addr < s.blockBase + 2 ^ 32 then s.placeAt (addr - s.blockBase) size
  else .fault .outsideWindow

/-- The value at a place while the block is not busy; POS word k = 3 reads 0 (20_memory.md R61 to R63). -/
def State.valueAt (s : State) : Place → Noted
  | .reg r => .word (s.readReg r)
  | .buf i => .byte (s.bufByte i)
  | .pos j k => .word (if k = 3 then 0#32 else s.posWord j k)

/-- The draw that a read of a place answers while BUSY (70_reset_and_hazards.md R246). -/
def State.drawAt (s : State) : Place → Noted
  | .reg _ => .word (Config.busyWord s.draws)
  | .buf _ => .byte (Config.busyByte s.draws)
  | .pos _ _ => .word (Config.busyWord s.draws)

/-- A host read of a place: its value, or while BUSY a draw for every place but STATUS (R246). A read has no side effect on
the block (20_memory.md R61, R70); the host's program notes what it read (30_encoding.md R85). -/
def State.readPlace (s : State) (p : Place) : State :=
  if s.busy = true ∧ p ≠ .reg .status then (s.note (s.drawAt p)).countDraw else s.note (s.valueAt p)

/-- A host write of a place while the block is not busy; POS word k = 3 ignores writes (20_memory.md R61 to R63). -/
def State.writePlace (s : State) (v : Word) : Place → State
  | .reg r => s.writeReg r v
  | .buf i => s.setMem (Memory.store s.mem (bufAddr i) (v.extractLsb' 0 8))
  | .pos j k => if k = 3 then s else s.setMem (Memory.storeWord s.mem (posAddr j k) v)

/-- One host access (20_memory.md R60 to R64). A write while BUSY is refused (70_reset_and_hazards.md R245). -/
def State.doAccess (s : State) : Access → Host.Outcome State Fault Refusal
  | .read addr size =>
    match s.locate addr size with
    | .next p => .next (s.readPlace p)
    | .fault f => .fault f
    | .refused r => .refused r
  | .write addr size v =>
    match s.locate addr size with
    | .next p => if s.busy then .refused .writeWhileBusy else .next (s.writePlace v p)
    | .fault f => .fault f
    | .refused r => .refused r

end Sys2Proof.Machine
end

