-- ==== Sys2Proof/Machine/Agents.lean ====
section
/-! DEFINITION. The moves of the agents: the block's one step (10_state.md R43), the host's next operation (30_encoding.md
R85), and who moves (70_reset_and_hazards.md R247; log 6). -/

namespace Sys2Proof.Machine

/-- Execute a command word (30_encoding.md R80): an illegal word raises ILLEGAL_CMD and has no other effect (60_exceptions.md
R204). -/
def State.runCommand (s : State) (w : Word) : Host.Outcome State Fault Refusal :=
  match decode w with
  | .ok i => exec i s
  | .error _ => .next (s.complete (.illegalCmd w))

/-- The block's turn: it takes no step unless a command is pending (10_state.md R20, R43; log 7). -/
def State.blockTurn (s : State) : Host.Outcome State Fault Refusal :=
  match s.pending with
  | none => .next s
  | some w => s.runCommand w

/-- One poll of `wait` (30_encoding.md R85): read STATUS, and go on with `rest` once BUSY reads 0 (log 13). -/
def State.poll (s : State) (rest : List HostOp) : State :=
  if s.busy then s.readPlace (.reg .status) else (s.readPlace (.reg .status)).setHostOps rest

/-- The host's turn: its next operation, if its program has one left (log 7, 8). -/
def State.hostTurn (s : State) : Host.Outcome State Fault Refusal :=
  match s.hostOps with
  | [] => .next s
  | .access a :: rest => (s.setHostOps rest).doAccess a
  | .wait :: rest => .next (s.poll rest)

/-- Who moves next: whom the schedule names; once it names no one, the block while a command is pending, else the host
(70_reset_and_hazards.md R247; log 6). -/
def State.turn (s : State) : Turn :=
  match s.schedule with
  | t :: _ => t
  | [] => if s.busy then .block else .host

/-- Take the turn `t`. -/
def State.take (s : State) : Turn → Host.Outcome State Fault Refusal
  | .block => s.blockTurn
  | .host => s.hostTurn
  | .reset => .next s.blockReset

end Sys2Proof.Machine
end

