-- ==== Sys2Proof/Machine/Step.lean ====
section
/-! DEFINITION. One step of the system (20_memory.md R72): one host operation, one command, or a reset. -/

namespace Sys2Proof.Machine

/-- One step of the single total order of R72. -/
def step (s : State) : Host.Outcome State Fault Refusal := s.popTurn.take s.turn

/-- `s` with the command word of a table row latched in PENDING and the block next to move, so that the very next step runs it.
It stands for a host write of CMD just done (10_state.md R22; log 8). A number that is no 32-bit word latches nothing. -/
def State.withFetchWord (s : State) (nbits w : Nat) : State :=
  { s with pending := tableWord nbits w, schedule := .block :: s.schedule }

end Sys2Proof.Machine
end

