-- ==== Sys2Proof/Machine/HostAsm.lean ====
section
/-! DEFINITION. The host assembly syntax and its pseudo-instructions, as host operations (30_encoding.md R85, R86), for a block
whose window starts at `base`. -/

namespace Sys2Proof.Machine

/-- `sw REG, v`: a 32-bit write of v to register REG; a negative v means u32(v) (30_encoding.md R85). -/
def asmSw (base : Nat) (r : Reg) (v : Int) : HostOp := .access (.write (base + r.offset) 4 (u32 v))

/-- `lw REG` (R85). -/
def asmLw (base : Nat) (r : Reg) : HostOp := .access (.read (base + r.offset) 4)

/-- `sb BUF+i, b` (R85). -/
def asmSb (base i : Nat) (b : Byte) : HostOp := .access (.write (base + bufAddr i) 1 (b.setWidth 32))

/-- `lb BUF+i` (R85). -/
def asmLb (base i : Nat) : HostOp := .access (.read (base + bufAddr i) 1)

/-- `sw POS+j.x, v`, `.y` and `.z` for k = 0, 1 and 2 (R85). -/
def asmSwPos (base j k : Nat) (v : Int) : HostOp := .access (.write (base + posAddr j k) 4 (u32 v))

/-- `lw POS+j.x`, `.y` and `.z` for k = 0, 1 and 2 (R85). -/
def asmLwPos (base j k : Nat) : HostOp := .access (.read (base + posAddr j k) 4)

/-- `sw CMD, w` with a command word w, legal or not (95_test_vectors.md P3 step 3). -/
def asmSwCmd (base : Nat) (w : Word) : HostOp := .access (.write (base + Reg.cmd.offset) 4 w)

/-- `cmd MNEMONIC`: `sw CMD` of the command's word, then `wait` (R85). -/
def asmCmd (base : Nat) (i : Instr) : List HostOp := [asmSwCmd base (encode i), .wait]

/-- `sw X_IN, x` ; `sw Y_IN, y` ; `sw Z_IN, z` (R86). -/
def asmInputs (base : Nat) (x y z : Int) : List HostOp := [asmSw base .xIn x, asmSw base .yIn y, asmSw base .zIn z]

/-- `pack32 x, y, z` (R86). -/
def asmPack32 (base : Nat) (x y z : Int) : List HostOp := asmInputs base x y z ++ asmCmd base .pack32

/-- `unpack32 p` (R86). -/
def asmUnpack32 (base : Nat) (p : Int) : List HostOp := asmSw base .packed p :: asmCmd base .unpack32

/-- `pack16h x, y, z` (R86). -/
def asmPack16h (base : Nat) (x y z : Int) : List HostOp := asmInputs base x y z ++ asmCmd base .pack16h

/-- `unpack16h p, h` (R86). -/
def asmUnpack16h (base : Nat) (p h : Int) : List HostOp :=
  asmSw base .packed p :: asmSw base .half h :: asmCmd base .unpack16h

/-- `wrbits o, v, n` (R86). -/
def asmWrbits (base : Nat) (o v n : Int) : List HostOp :=
  asmSw base .bitOffset o :: asmSw base .bitval v :: asmSw base .numBits n :: asmCmd base .wrbits

/-- `rdbits o, n` (R86). -/
def asmRdbits (base : Nat) (o n : Int) : List HostOp :=
  asmSw base .bitOffset o :: asmSw base .numBits n :: asmCmd base .rdbits

/-- `setlen L` (R86). -/
def asmSetlen (base : Nat) (l : Int) : List HostOp := [asmSw base .bufLen l]

/-- `wrpos j, x, y, z` (R86). -/
def asmWrpos (base j : Nat) (x y z : Int) : List HostOp :=
  [asmSwPos base j 0 x, asmSwPos base j 1 y, asmSwPos base j 2 z]

/-- `packm n` (R86). -/
def asmPackm (base : Nat) (n : Int) : List HostOp := asmSw base .count n :: asmCmd base .packm

/-- `unpackm n` (R86). -/
def asmUnpackm (base : Nat) (n : Int) : List HostOp := asmSw base .count n :: asmCmd base .unpackm

end Sys2Proof.Machine
end

