-- ==== Sys2Proof/Safety.lean ====
section
/-! DEFINITION. The terms the claims use: what a success and a failure leave (60_exceptions.md R208, R209), where a command
stores (30_encoding.md R82), and the invariants of the machine. -/

namespace Sys2Proof.Machine

/-- `s` after a command that succeeded, its writes being in `s` (60_exceptions.md R208, R211): FAULT_SEEN stays. -/
def State.succeed (s : State) : State :=
  { s with err := false, cause := .none, field := .none, errValue := 0#32, errIndex := 0#32, pending := none }

/-- `s` after a command that ended in an error (60_exceptions.md R208, R209): nothing but the report changes. -/
def State.fail (s : State) (c : Cause) (f : FieldCode) (value index : Word) : State :=
  { s with
    err := true
    cause := c
    field := f
    faultSeen := true
    errValue := value
    errIndex := index
    pending := none }

/-- `BufBit(p)` of BUF (20_memory.md R65). -/
def State.bufBit (s : State) (p : Nat) : Bool := (s.bufByte (p / 8)).getLsbD (p % 8)

/-- Window offset `a` is a byte that command `i`, run in `s`, stores to if it succeeds (30_encoding.md R82, 20_memory.md R70). -/
def State.storesAt (s : State) (a : Nat) : Instr → Prop
  | .pack32 => False
  | .unpack32 => False
  | .pack16h => False
  | .unpack16h => False
  | .wrbits =>
    bufAddr (s.bitOffset.toNat / 8) ≤ a ∧
      a < bufAddr (s.bitOffset.toNat / 8) + touchedCount s.bitOffset.toNat s.numBits.toNat
  | .rdbits => False
  | .packm => bufAddr 0 ≤ a ∧ a < bufAddr (bulkBytes s.count.toNat)
  | .unpackm => ∃ j k, j < s.count.toNat ∧ k < 3 ∧ posAddr j k ≤ a ∧ a < posAddr j k + 4

/-- The first field of a position that the range check rejects, in the order x, z, y (40_single_int_codec.md R100), with its
value; `none` for a valid position. -/
def Coord.firstBad (c : Coord) : Option (FieldCode × Int) :=
  if c.x < 0 ∨ 15 < c.x then some (.x, c.x)
  else if c.z < 0 ∨ 15 < c.z then some (.z, c.z)
  else if c.y < -64 ∨ 319 < c.y then some (.y, c.y)
  else none

/-! ### Invariants -/

/-- Window offset `a` belongs to BUF (20_memory.md R60). -/
abbrev State.inBuf (s : State) (a : Nat) : Prop := 0x1000 ≤ a ∧ a < 0x1000 + s.bufCap.toNat

/-- Window offset `a` belongs to a coordinate word of POS (20_memory.md R60, R63). -/
abbrev State.inPos (s : State) (a : Nat) : Prop :=
  0x10000 ≤ a ∧ a < 0x10000 + 16 * s.posCap.toNat ∧ a % 16 < 12

/-- The parameters are legal (00_scope.md R7), BUF_LEN is a legal value (10_state.md R38), and every byte written since reset
lies in BUF or in a coordinate word of POS (20_memory.md R60). -/
abbrev State.storageOk (s : State) : Prop :=
  paramsOk s.bufCap s.posCap = true ∧ s.bufLen.toNat ≤ s.bufCap.toNat ∧
    ∀ c ∈ s.mem, s.inBuf c.1 ∨ s.inPos c.1

/-- The STATUS fields agree with each other and with ERR_VALUE and ERR_INDEX (10_state.md R25 to R28, R39). -/
abbrev State.statusOk (s : State) : Prop :=
  (s.err = true ↔ s.cause ≠ .none) ∧ (s.field ≠ .none ↔ s.cause = .range) ∧
    (s.err = true → s.faultSeen = true) ∧ (s.err = false → s.errValue = 0#32) ∧
    (s.cause ≠ .range → s.errIndex = 0#32)

/-- X_OUT and Z_OUT hold 0..15 and Y_OUT a y of -64..447 (10_state.md R33); zero, the reset value, is such a value. -/
abbrev State.outputsOk (s : State) : Prop :=
  s.xOut.toNat ≤ 15 ∧ s.zOut.toNat ≤ 15 ∧ -64 ≤ s.yOut.toInt ∧ s.yOut.toInt ≤ 447

end Sys2Proof.Machine
end

