-- ==== Sys2Proof/Certificates/Slice0/Obligations.lean ====
section
/-! DEFINITION. The statements for the provers. Each docstring names the rule of spec/ that the statement formalises; the
hypotheses of each are met by the named witnesses of Sys2Proof/Tests/Slice0.lean. -/

open Sys2Proof Sys2Proof.Machine

/-! ### Command words and the block's step -/

/-- 30_encoding.md R80, R81, R83: decoding inverts encoding on every word, and the words that are not decoded are those with
some bit of 31:4 set or with OP 0x0 or 0x9 to 0xF. -/
def Obligations.DecodeInvertsEncode : Prop :=
  (∀ (w : Word) (i : Instr), decode w = .ok i ↔ w = encode i) ∧
    ∀ w : Word, (∃ r, decode w = .error r) ↔
      (w.extractLsb' 4 28 ≠ 0#28 ∨ (w.extractLsb' 0 4).toNat = 0 ∨ 9 ≤ (w.extractLsb' 0 4).toNat)

/-- 30_encoding.md R81 and 95_test_vectors.md V5: the eight words of the opcode map decode to their commands, and six words
beside them do not decode. -/
def Obligations.OpcodeMapWordsDecode : Prop :=
  (decode 0x00000001#32 = .ok .pack32 ∧ decode 0x00000002#32 = .ok .unpack32 ∧ decode 0x00000003#32 = .ok .pack16h ∧
    decode 0x00000004#32 = .ok .unpack16h ∧ decode 0x00000005#32 = .ok .wrbits ∧ decode 0x00000006#32 = .ok .rdbits ∧
    decode 0x00000007#32 = .ok .packm ∧ decode 0x00000008#32 = .ok .unpackm) ∧
    decode 0x00000000#32 = .error (.opcode 0) ∧ decode 0x00000009#32 = .error (.opcode 9) ∧
    decode 0x0000000F#32 = .error (.opcode 15) ∧ decode 0x00000010#32 = .error .mbzSet ∧
    decode 0x00000011#32 = .error .mbzSet ∧ decode 0x80000001#32 = .error .mbzSet

/-- 10_state.md R43: in the block's turn, the pending word that decodes to a command is executed as that command. All that the
step adds is that the turn is taken off the schedule (log 6). -/
def Obligations.StepRunsDecodedCommand : Prop :=
  ∀ (s : State) (w : Word) (i : Instr),
    s.turn = .block → s.pending = some w → decode w = .ok i →
      step s = exec i { s with schedule := s.schedule.tail }

/-- 60_exceptions.md R204: a word that is none of the eight raises ILLEGAL_CMD with the word in ERR_VALUE, and nothing else. -/
def Obligations.IllegalWordRaisesIllegalCmd : Prop :=
  ∀ (s : State) (w : Word),
    s.turn = .block → s.pending = some w →
    (w.extractLsb' 4 28 ≠ 0#28 ∨ (w.extractLsb' 0 4).toNat = 0 ∨ 9 ≤ (w.extractLsb' 0 4).toNat) →
      step s = .next (State.fail { s with schedule := s.schedule.tail } .illegalCmd .none w 0#32)

/-- 10_state.md R20, 70_reset_and_hazards.md R242: without a pending command the block takes no step. That a turn of an agent
with nothing to do is a step that changes nothing is the model's choice (log 7). -/
def Obligations.IdleTurnsChangeNothing : Prop :=
  ∀ s : State,
    (s.turn = .block → s.pending = none → step s = .next { s with schedule := s.schedule.tail }) ∧
      (s.turn = .host → s.hostOps = [] → step s = .next { s with schedule := s.schedule.tail })

/-! ### PACK32 and UNPACK32 -/

/-- 40_single_int_codec.md R103: the word 1 selects PACK32; a valid position is packed as x + 16 z + 256 (y + 64) into PACKED
and the command succeeds; else RANGE reports the first bad field in the order x, z, y, and nothing else changes. -/
def Obligations.Pack32Command : Prop :=
  decode 0x00000001#32 = .ok .pack32 ∧
    ∀ s : State,
      (s.inputCoord.valid →
        exec .pack32 s = .next (State.succeed { s with
          packed := BitVec.ofNat 32
            (s.xIn.toInt.toNat + 16 * s.zIn.toInt.toNat + 256 * (s.yIn.toInt + 64).toNat) })) ∧
      ∀ (f : FieldCode) (v : Int), s.inputCoord.firstBad = some (f, v) →
        exec .pack32 s = .next (s.fail .range f (BitVec.ofInt 32 v) 0#32)

/-- 40_single_int_codec.md R104: the word 2 selects UNPACK32, which always succeeds: X_OUT = PACKED[3:0], Z_OUT = PACKED[7:4],
Y_OUT = PACKED[16:8] - 64. -/
def Obligations.Unpack32Command : Prop :=
  decode 0x00000002#32 = .ok .unpack32 ∧
    ∀ s : State,
      exec .unpack32 s = .next (State.succeed { s with
        xOut := BitVec.ofNat 32 (s.packed.toNat % 16)
        yOut := BitVec.ofInt 32 (((s.packed.toNat / 256 % 512 : Nat) : Int) - 64)
        zOut := BitVec.ofNat 32 (s.packed.toNat / 16 % 16) })

/-- 40_single_int_codec.md R102: bits 31:17 of PACKED never change what UNPACK32 does. -/
def Obligations.Unpack32IgnoresHighBits : Prop :=
  ∀ (s t : State) (p : Word),
    p.extractLsb' 0 17 = s.packed.extractLsb' 0 17 → exec .unpack32 s = .next t →
      exec .unpack32 { s with packed := p } = .next { t with packed := p }

/-- 40_single_int_codec.md R105, which the spec marks as its own inference (derived from rules R100 to R102): round trip, its
converse, injectivity with the exact image, and the range of the decoder. -/
def Obligations.SingleIntegerCodecLaws : Prop :=
  (∀ (c : Coord) (i : Nat), c.valid → ∃ p, pack32 c i = .ok p ∧ unpack32 p = c) ∧
  (∀ p i : Nat, p < 2 ^ 32 →
    (p / 256 % 512 ≤ 383 → pack32 (unpack32 p) i = .ok (p % 2 ^ 17)) ∧
    (384 ≤ p / 256 % 512 →
      pack32 (unpack32 p) i = .error (.range .y (((p / 256 % 512 : Nat) : Int) - 64) i))) ∧
  (∀ (c d : Coord) (p : Nat), pack32 c 0 = .ok p → pack32 d 0 = .ok p → c = d) ∧
  (∀ v : Nat, (∃ c, pack32 c 0 = .ok v) ↔ v < 2 ^ 17 ∧ v / 256 % 512 ≤ 383) ∧
  (∀ p : Nat, (0 ≤ (unpack32 p).x ∧ (unpack32 p).x ≤ 15) ∧ (0 ≤ (unpack32 p).z ∧ (unpack32 p).z ≤ 15) ∧
    -64 ≤ (unpack32 p).y ∧ (unpack32 p).y ≤ 447)

/-! ### PACK16H and UNPACK16H -/

/-- 41_half_split_codec.md R122: the word 3 selects PACK16H; a valid position is packed into 16 bits with the offset within its
half, HALF says which half; else RANGE as for PACK32. -/
def Obligations.Pack16hCommand : Prop :=
  decode 0x00000003#32 = .ok .pack16h ∧
    ∀ s : State,
      (s.inputCoord.valid →
        exec .pack16h s = .next (State.succeed { s with
          packed := BitVec.ofNat 32
            (s.xIn.toInt.toNat + 16 * s.zIn.toInt.toNat +
              256 * (if 128 ≤ s.yIn.toInt then s.yIn.toInt - 128 else s.yIn.toInt + 64).toNat)
          half := decide (128 ≤ s.yIn.toInt) })) ∧
      ∀ (f : FieldCode) (v : Int), s.inputCoord.firstBad = some (f, v) →
        exec .pack16h s = .next (s.fail .range f (BitVec.ofInt 32 v) 0#32)

/-- 41_half_split_codec.md R123: the word 4 selects UNPACK16H, which always succeeds, reads PACKED[15:0] and HALF, and gives
y = 128 + PACKED[15:8] in the upper half and -64 + PACKED[15:8] in the lower. -/
def Obligations.Unpack16hCommand : Prop :=
  decode 0x00000004#32 = .ok .unpack16h ∧
    ∀ s : State,
      exec .unpack16h s = .next (State.succeed { s with
        xOut := BitVec.ofNat 32 (s.packed.toNat % 16)
        yOut := BitVec.ofInt 32
          ((if s.half = true then 128 else -64) + ((s.packed.toNat / 256 % 256 : Nat) : Int))
        zOut := BitVec.ofNat 32 (s.packed.toNat / 16 % 16) })

/-- 41_half_split_codec.md R124, which the spec marks as its own inference (derived from rules R120, R121 and R100): round trip, the
half boundary, the 192 values of the in-half field, and the relation with the
32-bit form. -/
def Obligations.HalfSplitCodecLaws : Prop :=
  (∀ c : Coord, c.valid → ∃ h p, packHalf c = .ok (h, p) ∧ unpackHalf p h = c) ∧
  (∀ (c : Coord) (h : Bool) (p : Nat), packHalf c = .ok (h, p) →
    (c.y = 127 → h = false) ∧ (c.y = 128 → h = true)) ∧
  (∀ (c : Coord) (h : Bool) (p : Nat), packHalf c = .ok (h, p) →
    p / 256 ≤ 191 ∧ ¬ (p.testBit 15 = true ∧ p.testBit 14 = true)) ∧
  (∀ f : Nat, f ≤ 191 → ∃ c h p, packHalf c = .ok (h, p) ∧ p / 256 = f) ∧
  (∀ c : Coord, c.valid → ∃ p, pack32 c 0 = .ok p ∧
    (c.y < 128 → packHalf c = .ok (false, p)) ∧
    (128 ≤ c.y → 0xC000 ≤ p ∧ packHalf c = .ok (true, p - 0xC000)))

/-- 40_single_int_codec.md R105 item 1 and 41_half_split_codec.md R124 item 1 as commands: decoding right after encoding a valid
position puts the input words into the output registers. -/
def Obligations.EncodeThenDecodeRestores : Prop :=
  ∀ s : State, s.inputCoord.valid →
    (∃ t u, exec .pack32 s = .next t ∧ exec .unpack32 t = .next u ∧
      u.xOut = s.xIn ∧ u.yOut = s.yIn ∧ u.zOut = s.zIn) ∧
    ∃ t u, exec .pack16h s = .next t ∧ exec .unpack16h t = .next u ∧
      u.xOut = s.xIn ∧ u.yOut = s.yIn ∧ u.zOut = s.zIn

/-! ### WRBITS and RDBITS -/

/-- 42_bit_buffer.md R140: the loop of `writeBits`, bit by bit; with n = 0 the array is unchanged. The spec tags the bit-wise form
as its own inference: "derived: the bit-wise form follows from the loop". -/
def Obligations.WriteBitsIsBitwise : Prop :=
  ∀ (B : List Byte) (o v n : Nat), v < 2 ^ 32 → n ≤ 32 → o + n ≤ 8 * B.length →
    (writeBits B o v n).length = B.length ∧
    (∀ q, q < 8 * B.length →
      bufBit (writeBits B o v n) q = if o ≤ q ∧ q < o + n then v.testBit (q - o) else bufBit B q) ∧
    (n = 0 → writeBits B o v n = B)

/-- 42_bit_buffer.md R141: the loop of `readBits` gives the n-bit value whose bit k is bit o + k of the buffer. -/
def Obligations.ReadBitsIsBitwise : Prop :=
  ∀ (B : List Byte) (o n : Nat), n ≤ 32 → o + n ≤ 8 * B.length →
    readBits B o n < 2 ^ n ∧ ∀ k, (readBits B o n).testBit k = (decide (k < n) && bufBit B (o + k))

/-- 42_bit_buffer.md R145 items 1, 3, 4 and 5, which the spec marks as its own inference (derived from rules R140 to R142): read
after write, commuting writes, splitting a read, and the bytes touched. -/
def Obligations.BitFieldLaws : Prop :=
  (∀ (B : List Byte) (o v n : Nat), n ≤ 32 → o + n ≤ 8 * B.length →
    readBits (writeBits B o v n) o n = v % 2 ^ n) ∧
  (∀ (B : List Byte) (o₁ v₁ n₁ o₂ v₂ n₂ : Nat), n₁ ≤ 32 → n₂ ≤ 32 →
    o₁ + n₁ ≤ 8 * B.length → o₂ + n₂ ≤ 8 * B.length → (o₁ + n₁ ≤ o₂ ∨ o₂ + n₂ ≤ o₁) →
    writeBits (writeBits B o₁ v₁ n₁) o₂ v₂ n₂ = writeBits (writeBits B o₂ v₂ n₂) o₁ v₁ n₁) ∧
  (∀ (B : List Byte) (o n₁ n₂ : Nat), n₁ + n₂ ≤ 32 → o + (n₁ + n₂) ≤ 8 * B.length →
    readBits B o (n₁ + n₂) = readBits B o n₁ ||| (readBits B (o + n₁) n₂ <<< n₁)) ∧
  ∀ (B : List Byte) (o v n i : Nat), 1 ≤ n → n ≤ 32 → o + n ≤ 8 * B.length →
    (i < o / 8 ∨ (o + n - 1) / 8 < i → (writeBits B o v n)[i]? = B[i]?) ∧
    (o + n - 1) / 8 - o / 8 + 1 ≤ (o % 8 + n + 7) / 8 ∧ (o % 8 + n + 7) / 8 ≤ 5

/-- 42_bit_buffer.md R143: the word 5 selects WRBITS; its two errors, in their order; and on success the bits of BUF[0..L-1] in
[o, o + n) are those of BITVAL, every other bit of BUF and every untouched byte is as before, and nothing else changes. -/
def Obligations.WrbitsCommand : Prop :=
  decode 0x00000005#32 = .ok .wrbits ∧
    ∀ s : State,
      (32 < s.numBits.toNat → exec .wrbits s = .next (s.fail .illegalArg .none s.numBits 0#32)) ∧
      (s.numBits.toNat ≤ 32 → 8 * s.bufLen.toNat < s.bitOffset.toNat + s.numBits.toNat →
        exec .wrbits s =
          .next (s.fail .bounds .none (BitVec.ofNat 32 (s.bitOffset.toNat + s.numBits.toNat)) 0#32)) ∧
      (s.numBits.toNat ≤ 32 → s.bitOffset.toNat + s.numBits.toNat ≤ 8 * s.bufLen.toNat →
        ∃ t, exec .wrbits s = .next t ∧ t = State.succeed { s with mem := t.mem } ∧
          (∀ q, q < 8 * s.bufLen.toNat →
            t.bufBit q =
              if s.bitOffset.toNat ≤ q ∧ q < s.bitOffset.toNat + s.numBits.toNat
              then s.bitval.getLsbD (q - s.bitOffset.toNat) else s.bufBit q) ∧
          ∀ a, ¬ s.storesAt a .wrbits → t.byteAt a = s.byteAt a)

/-- 42_bit_buffer.md R144: the word 6 selects RDBITS; its two errors, in their order; and on success BITVAL holds the field,
zero above bit n - 1, and nothing else changes. -/
def Obligations.RdbitsCommand : Prop :=
  decode 0x00000006#32 = .ok .rdbits ∧
    ∀ s : State,
      (32 < s.numBits.toNat → exec .rdbits s = .next (s.fail .illegalArg .none s.numBits 0#32)) ∧
      (s.numBits.toNat ≤ 32 → 8 * s.bufLen.toNat < s.bitOffset.toNat + s.numBits.toNat →
        exec .rdbits s =
          .next (s.fail .bounds .none (BitVec.ofNat 32 (s.bitOffset.toNat + s.numBits.toNat)) 0#32)) ∧
      (s.numBits.toNat ≤ 32 → s.bitOffset.toNat + s.numBits.toNat ≤ 8 * s.bufLen.toNat →
        ∃ v : Word, exec .rdbits s = .next (State.succeed { s with bitval := v }) ∧
          ∀ k, v.getLsbD k = (decide (k < s.numBits.toNat) && s.bufBit (s.bitOffset.toNat + k)))

/-- 42_bit_buffer.md R145 item 1 as commands: RDBITS right after WRBITS reads BITVAL mod 2^n back. -/
def Obligations.WrbitsThenRdbitsReadsBack : Prop :=
  ∀ s : State, s.numBits.toNat ≤ 32 → s.bitOffset.toNat + s.numBits.toNat ≤ 8 * s.bufLen.toNat →
    ∃ t u, exec .wrbits s = .next t ∧ exec .rdbits t = .next u ∧ u.err = false ∧
      u.bitval = BitVec.ofNat 32 (s.bitval.toNat % 2 ^ s.numBits.toNat)

/-! ### PACKM and UNPACKM -/

/-- 43_bulk_bitstream.md R160: the bitstream of N valid positions has ceil(17 N / 8) bytes, its padding is 0 to 7 bits, and it
is 0 exactly when N is a multiple of 8. -/
def Obligations.BitstreamSizeLaw : Prop :=
  ∀ S : List Coord, (∀ c ∈ S, c.valid) →
    ∃ B, packMultiple S = .ok B ∧ 17 * S.length ≤ 8 * B.length ∧ 8 * B.length - 17 * S.length ≤ 7 ∧
      (8 * B.length = 17 * S.length ↔ S.length % 8 = 0)

/-- 43_bulk_bitstream.md R163: the word 7 selects PACKM; its errors, in their order, the first bad field of the first bad
position among them; and on success entry i of the bitstream is the 32-bit form of POS[i], the padding is 0, BUF_LEN is
ceil(17 N / 8), every other byte is as before, and nothing else changes. -/
def Obligations.PackmCommand : Prop :=
  decode 0x00000007#32 = .ok .packm ∧
    ∀ s : State,
      (s.posCap.toNat < s.count.toNat → exec .packm s = .next (s.fail .capacity .none s.count 0#32)) ∧
      (s.count.toNat ≤ s.posCap.toNat → s.bufCap.toNat < (17 * s.count.toNat + 7) / 8 →
        exec .packm s = .next (s.fail .capacity .none s.count 0#32)) ∧
      (s.count.toNat ≤ s.posCap.toNat → (17 * s.count.toNat + 7) / 8 ≤ s.bufCap.toNat →
        (∀ (i : Nat) (f : FieldCode) (v : Int), i < s.count.toNat → (∀ j, j < i → (s.posCoord j).valid) →
          (s.posCoord i).firstBad = some (f, v) →
          exec .packm s = .next (s.fail .range f (BitVec.ofInt 32 v) (BitVec.ofNat 32 i))) ∧
        ((∀ i, i < s.count.toNat → (s.posCoord i).valid) →
          ∃ t, exec .packm s = .next t ∧
            t = State.succeed { s with
              mem := t.mem, bufLen := BitVec.ofNat 32 ((17 * s.count.toNat + 7) / 8) } ∧
            (∀ i k, i < s.count.toNat → k < 17 →
              t.bufBit (17 * i + k) =
                ((s.posCoord i).x.toNat + 16 * (s.posCoord i).z.toNat +
                  256 * ((s.posCoord i).y + 64).toNat).testBit k) ∧
            (∀ q, 17 * s.count.toNat ≤ q → q < 8 * ((17 * s.count.toNat + 7) / 8) → t.bufBit q = false) ∧
            ∀ a, ¬ s.storesAt a .packm → t.byteAt a = s.byteAt a))

/-- 43_bulk_bitstream.md R164: the word 8 selects UNPACKM; its two errors, in their order; and on success the words of POS[j] are
those of the 17-bit entry j of BUF, every other byte is as before, and nothing else changes. -/
def Obligations.UnpackmCommand : Prop :=
  decode 0x00000008#32 = .ok .unpackm ∧
    ∀ s : State,
      (s.posCap.toNat < s.count.toNat → exec .unpackm s = .next (s.fail .capacity .none s.count 0#32)) ∧
      (s.count.toNat ≤ s.posCap.toNat → 8 * s.bufLen.toNat < 17 * s.count.toNat →
        exec .unpackm s = .next (s.fail .bounds .none (BitVec.ofNat 32 (17 * s.count.toNat)) 0#32)) ∧
      (s.count.toNat ≤ s.posCap.toNat → 17 * s.count.toNat ≤ 8 * s.bufLen.toNat →
        ∃ t, exec .unpackm s = .next t ∧ t = State.succeed { s with mem := t.mem } ∧
          (∀ j p, j < s.count.toNat → p < 2 ^ 17 → (∀ k, k < 17 → p.testBit k = s.bufBit (17 * j + k)) →
            t.posWord j 0 = BitVec.ofNat 32 (p % 16) ∧
            t.posWord j 1 = BitVec.ofInt 32 (((p / 256 : Nat) : Int) - 64) ∧
            t.posWord j 2 = BitVec.ofNat 32 (p / 16 % 16)) ∧
          ∀ a, ¬ s.storesAt a .unpackm → t.byteAt a = s.byteAt a)

/-- 43_bulk_bitstream.md R165 item 1: after a PACKM that succeeded, UNPACKM with the same COUNT succeeds and rewrites POS[0..N-1]
with exactly the words it held before PACKM. -/
def Obligations.BulkRoundTrip : Prop :=
  ∀ s t : State, exec .packm s = .next t → t.err = false →
    ∃ u, exec .unpackm t = .next u ∧ u.err = false ∧
      ∀ j k, j < s.count.toNat → k < 3 → u.posWord j k = s.posWord j k

/-- 43_bulk_bitstream.md R165 item 3: on a buffer that PACKM produced for N positions, a larger COUNT raises BOUNDS and a smaller
one gives the first COUNT positions. -/
def Obligations.WrongCountAfterPackm : Prop :=
  ∀ (s t : State) (c : Word), exec .packm s = .next t → t.err = false →
    (s.count.toNat < c.toNat → c.toNat ≤ s.posCap.toNat →
      exec .unpackm { t with count := c } =
        .next (State.fail { t with count := c } .bounds .none (BitVec.ofNat 32 (17 * c.toNat)) 0#32)) ∧
    (c.toNat < s.count.toNat →
      ∃ u, exec .unpackm { t with count := c } = .next u ∧ u.err = false ∧
        ∀ j k, j < c.toNat → k < 3 → u.posWord j k = s.posWord j k)

/-- 43_bulk_bitstream.md R165 item 2: entry i of a bitstream that PACKM produced can be read by itself: RDBITS of 17 bits at
17 i gives the 32-bit form of position i. -/
def Obligations.EntryReadsAlone : Prop :=
  ∀ (s t : State) (i : Nat) (o : Word), exec .packm s = .next t → t.err = false →
    i < s.count.toNat → o.toNat = 17 * i →
    ∃ u p, exec .rdbits { t with bitOffset := o, numBits := 17#32 } = .next u ∧ u.err = false ∧
      pack32 (s.posCoord i) i = .ok p ∧ u.bitval = BitVec.ofNat 32 p

/-- 30_encoding.md R89, 43_bulk_bitstream.md R164: UNPACKM reads no bit past 17 N, padding or not: memories that agree on the first
17 N bits of BUF give the same positions. -/
def Obligations.UnpackmReadsOnlyItsEntries : Prop :=
  ∀ (s t : State) (m : Memory), exec .unpackm s = .next t → t.err = false →
    (∀ q, q < 17 * s.count.toNat → State.bufBit { s with mem := m } q = s.bufBit q) →
    ∃ u, exec .unpackm { s with mem := m } = .next u ∧ u.err = false ∧
      ∀ j k, j < s.count.toNat → k < 3 → u.posWord j k = t.posWord j k

/-! ### The end of a command, frames -/

/-- 60_exceptions.md R200, R209: every command ends, in success with a cleared report or in an error that changes nothing but
STATUS, ERR_VALUE and ERR_INDEX; either way PENDING is none. -/
def Obligations.EveryCommandEndsInOneOfTwoWays : Prop :=
  ∀ (i : Instr) (s : State), ∃ t, exec i s = .next t ∧ t.pending = none ∧
    ((t.err = false ∧ t.cause = .none ∧ t.field = .none ∧ t.errValue = 0#32 ∧ t.errIndex = 0#32 ∧
        t.faultSeen = s.faultSeen) ∨
      ∃ c f v k, c ≠ .none ∧ t = s.fail c f v k)

/-- 30_encoding.md R82: a command writes, of the registers, only its own results and the report of its completion. -/
def Obligations.CommandRegisterFrame : Prop :=
  ∀ (i : Instr) (s t : State), exec i s = .next t →
    (t.xIn = s.xIn ∧ t.yIn = s.yIn ∧ t.zIn = s.zIn ∧ t.bitOffset = s.bitOffset ∧ t.numBits = s.numBits ∧
      t.count = s.count ∧ t.bufCap = s.bufCap ∧ t.posCap = s.posCap) ∧
    (i ≠ .pack32 → i ≠ .pack16h → t.packed = s.packed) ∧
    (i ≠ .pack16h → t.half = s.half) ∧
    (i ≠ .unpack32 → i ≠ .unpack16h → t.xOut = s.xOut ∧ t.yOut = s.yOut ∧ t.zOut = s.zOut) ∧
    (i ≠ .rdbits → t.bitval = s.bitval) ∧
    (i ≠ .packm → t.bufLen = s.bufLen) ∧
    (t.blockBase = s.blockBase ∧ t.epoch = s.epoch ∧ t.draws = s.draws ∧ t.hostOps = s.hostOps ∧
      t.schedule = s.schedule ∧ t.noted = s.noted)

/-- 30_encoding.md R82, 20_memory.md R70: a command changes no byte of memory but those that it stores to: WRBITS the bytes that
hold a bit of its field, PACKM the bytes of its bitstream, UNPACKM the coordinate words of its entries, the others none. -/
def Obligations.CommandMemoryFrame : Prop :=
  ∀ (i : Instr) (s t : State) (a : Nat), exec i s = .next t → ¬ s.storesAt a i → t.byteAt a = s.byteAt a

/-- 60_exceptions.md R211, 70_reset_and_hazards.md R248: the report of the last command has no influence on the next one but
through FAULT_SEEN. -/
def Obligations.ReportsDoNotAccumulate : Prop :=
  ∀ (i : Instr) (s t : State) (e : Bool) (c : Cause) (f : FieldCode) (b : Bool) (v k : Word), exec i s = .next t →
    exec i { s with err := e, cause := c, field := f, faultSeen := b, errValue := v, errIndex := k } =
      .next { t with faultSeen := b || t.err }

/-- 10_state.md R28: FAULT_SEEN is set by a completion with ERR = 1, cleared by reset, and changed by nothing else. -/
def Obligations.FaultSeenIsSticky : Prop :=
  (∀ s t : State, step s = .next t →
    (s.turn = .host → t.faultSeen = s.faultSeen) ∧
    (s.turn = .block → s.pending = none → t.faultSeen = s.faultSeen) ∧
    (s.turn = .block → s.pending ≠ none → t.faultSeen = (s.faultSeen || t.err)) ∧
    (s.turn = .reset → t.faultSeen = false)) ∧
  State.reset.faultSeen = false

/-- 10_state.md R23 to R29, 60_exceptions.md R201: the layout of STATUS, and the number that stands in bits 4:2 for each cause and in
bits 6:5 for each field. -/
def Obligations.StatusWordLayout : Prop :=
  ∀ s : State,
    s.statusWord.getLsbD 0 = s.pending.isSome ∧ s.statusWord.getLsbD 1 = s.err ∧
    ((s.cause = .none → s.statusWord.extractLsb' 2 3 = 0#3) ∧ (s.cause = .range → s.statusWord.extractLsb' 2 3 = 1#3) ∧
      (s.cause = .bounds → s.statusWord.extractLsb' 2 3 = 2#3) ∧
      (s.cause = .illegalCmd → s.statusWord.extractLsb' 2 3 = 3#3) ∧
      (s.cause = .illegalArg → s.statusWord.extractLsb' 2 3 = 4#3) ∧
      (s.cause = .capacity → s.statusWord.extractLsb' 2 3 = 5#3)) ∧
    ((s.field = .none → s.statusWord.extractLsb' 5 2 = 0#2) ∧ (s.field = .x → s.statusWord.extractLsb' 5 2 = 1#2) ∧
      (s.field = .y → s.statusWord.extractLsb' 5 2 = 2#2) ∧ (s.field = .z → s.statusWord.extractLsb' 5 2 = 3#2)) ∧
    s.statusWord.getLsbD 7 = s.faultSeen ∧ s.statusWord.extractLsb' 8 24 = 0#24

/-! ### The host's accesses -/

/-- 10_state.md R22: a write of CMD while not busy latches the word and does nothing else; CMD reads 0; a write of CMD while busy
is refused. -/
def Obligations.CmdLatchesACommand : Prop :=
  ∀ (s : State) (w : Word) (rest : List HostOp), s.turn = .host →
    (s.busy = false → s.hostOps = .access (.write s.blockBase 4 w) :: rest →
      step s = .next { s with schedule := s.schedule.tail, hostOps := rest, pending := some w }) ∧
    (s.busy = false → s.hostOps = .access (.read s.blockBase 4) :: rest →
      step s = .next { s with
        schedule := s.schedule.tail, hostOps := rest, noted := .word 0#32 :: s.noted }) ∧
    (s.busy = true → s.hostOps = .access (.write s.blockBase 4 w) :: rest → step s = .refused .writeWhileBusy)

/-- 10_state.md R40: writes to the read-only registers are ignored, with no other effect, and the two capacity registers read as
the parameters. -/
def Obligations.ReadOnlyRegistersIgnoreWrites : Prop :=
  ∀ (s : State) (off : Nat) (v : Word) (rest : List HostOp), s.turn = .host → s.busy = false →
    (off ∈ [0x004, 0x01C, 0x020, 0x024, 0x03C, 0x040, 0x044, 0x048] →
      s.hostOps = .access (.write (s.blockBase + off) 4 v) :: rest →
      step s = .next { s with schedule := s.schedule.tail, hostOps := rest }) ∧
    (s.hostOps = .access (.read (s.blockBase + 0x044) 4) :: rest →
      step s = .next { s with
        schedule := s.schedule.tail, hostOps := rest, noted := .word s.bufCap :: s.noted }) ∧
    (s.hostOps = .access (.read (s.blockBase + 0x048) 4) :: rest →
      step s = .next { s with
        schedule := s.schedule.tail, hostOps := rest, noted := .word s.posCap :: s.noted })

/-- 10_state.md R21, R30 to R32 and R34 to R38: what a write of each read-write register stores: the word, but for HALF, which
keeps bit 0, and BUF_LEN, which is clamped to BUF_CAP. -/
def Obligations.WritableRegistersStore : Prop :=
  ∀ (s : State) (off : Nat) (v : Word) (rest : List HostOp), s.turn = .host → s.busy = false →
    s.hostOps = .access (.write (s.blockBase + off) 4 v) :: rest →
    ∀ s' : State, s' = { s with schedule := s.schedule.tail, hostOps := rest } →
      (off = 0x008 → step s = .next { s' with xIn := v }) ∧
      (off = 0x00C → step s = .next { s' with yIn := v }) ∧
      (off = 0x010 → step s = .next { s' with zIn := v }) ∧
      (off = 0x014 → step s = .next { s' with packed := v }) ∧
      (off = 0x018 → step s = .next { s' with half := v.getLsbD 0 }) ∧
      (off = 0x028 → step s = .next { s' with bitOffset := v }) ∧
      (off = 0x02C → step s = .next { s' with numBits := v }) ∧
      (off = 0x030 → step s = .next { s' with bitval := v }) ∧
      (off = 0x034 → step s = .next { s' with count := v }) ∧
      (off = 0x038 → step s = .next { s' with bufLen := BitVec.ofNat 32 (min v.toNat s.bufCap.toNat) })

/-- 20_memory.md R61, 10_state.md R21: a read of a register while not busy answers its value and has no other effect. -/
def Obligations.RegisterReadsAnswer : Prop :=
  ∀ (s : State) (off : Nat) (rest : List HostOp), s.turn = .host → s.busy = false →
    s.hostOps = .access (.read (s.blockBase + off) 4) :: rest →
    ∀ answer : Word → State, (∀ w, answer w =
        { s with schedule := s.schedule.tail, hostOps := rest, noted := .word w :: s.noted }) →
      (off = 0x004 → step s = .next (answer s.statusWord)) ∧ (off = 0x008 → step s = .next (answer s.xIn)) ∧
      (off = 0x00C → step s = .next (answer s.yIn)) ∧ (off = 0x010 → step s = .next (answer s.zIn)) ∧
      (off = 0x014 → step s = .next (answer s.packed)) ∧
      (off = 0x018 → step s = .next (answer (if s.half = true then 1#32 else 0#32))) ∧
      (off = 0x01C → step s = .next (answer s.xOut)) ∧ (off = 0x020 → step s = .next (answer s.yOut)) ∧
      (off = 0x024 → step s = .next (answer s.zOut)) ∧ (off = 0x028 → step s = .next (answer s.bitOffset)) ∧
      (off = 0x02C → step s = .next (answer s.numBits)) ∧ (off = 0x030 → step s = .next (answer s.bitval)) ∧
      (off = 0x034 → step s = .next (answer s.count)) ∧ (off = 0x038 → step s = .next (answer s.bufLen)) ∧
      (off = 0x03C → step s = .next (answer s.errValue)) ∧ (off = 0x040 → step s = .next (answer s.errIndex))

/-- 20_memory.md R62: the host reads and writes any byte of BUF, whatever BUF_LEN is; a write changes that byte alone. That the byte
written is the low 8 bits of the access's 32-bit data is the model's choice (log 17). -/
def Obligations.BufBytesReadAndWrite : Prop :=
  ∀ (s : State) (i : Nat) (v : Word) (rest : List HostOp), s.turn = .host → s.busy = false →
    paramsOk s.bufCap s.posCap = true → i < s.bufCap.toNat →
    (s.hostOps = .access (.read (s.blockBase + (0x1000 + i)) 1) :: rest →
      step s = .next { s with
        schedule := s.schedule.tail, hostOps := rest, noted := .byte (s.bufByte i) :: s.noted }) ∧
    (s.hostOps = .access (.write (s.blockBase + (0x1000 + i)) 1 v) :: rest →
      ∃ t, step s = .next t ∧ t = { s with schedule := s.schedule.tail, hostOps := rest, mem := t.mem } ∧
        t.bufByte i = v.extractLsb' 0 8 ∧ ∀ a, a ≠ 0x1000 + i → t.byteAt a = s.byteAt a)

/-- 20_memory.md R63: the host reads and writes the coordinate words of POS; the word k = 3 reads 0 and ignores writes. -/
def Obligations.PosWordsReadAndWrite : Prop :=
  ∀ (s : State) (j k : Nat) (v : Word) (rest : List HostOp), s.turn = .host → s.busy = false →
    paramsOk s.bufCap s.posCap = true → j < s.posCap.toNat →
    (k < 3 → s.hostOps = .access (.read (s.blockBase + (0x10000 + 16 * j + 4 * k)) 4) :: rest →
      step s = .next { s with
        schedule := s.schedule.tail, hostOps := rest, noted := .word (s.posWord j k) :: s.noted }) ∧
    (k < 3 → s.hostOps = .access (.write (s.blockBase + (0x10000 + 16 * j + 4 * k)) 4 v) :: rest →
      ∃ t, step s = .next t ∧ t = { s with schedule := s.schedule.tail, hostOps := rest, mem := t.mem } ∧
        t.posWord j k = v ∧
        ∀ a, (a < 0x10000 + 16 * j + 4 * k ∨ 0x10000 + 16 * j + 4 * k + 4 ≤ a) → t.byteAt a = s.byteAt a) ∧
    (k = 3 → s.hostOps = .access (.read (s.blockBase + (0x10000 + 16 * j + 4 * k)) 4) :: rest →
      step s = .next { s with
        schedule := s.schedule.tail, hostOps := rest, noted := .word 0#32 :: s.noted }) ∧
    (k = 3 → s.hostOps = .access (.write (s.blockBase + (0x10000 + 16 * j + 4 * k)) 4 v) :: rest →
      step s = .next { s with schedule := s.schedule.tail, hostOps := rest })

/-- 20_memory.md R64: an access within the window that is none of an aligned register word, one BUF byte or an aligned POS word is
refused: the host has no step for it. -/
def Obligations.InadmissibleAccessesAreRefused : Prop :=
  ∀ (s : State) (off size : Nat) (v : Word) (rest : List HostOp), s.turn = .host →
    paramsOk s.bufCap s.posCap = true → off < 2 ^ 32 →
    ¬ (off ≤ 0x48 ∧ off % 4 = 0 ∧ size = 4) →
    ¬ (0x1000 ≤ off ∧ off < 0x1000 + s.bufCap.toNat ∧ size = 1) →
    ¬ (0x10000 ≤ off ∧ off < 0x10000 + 16 * s.posCap.toNat ∧ off % 4 = 0 ∧ size = 4) →
    (s.hostOps = .access (.read (s.blockBase + off) size) :: rest → ∃ r, step s = .refused r) ∧
    (s.hostOps = .access (.write (s.blockBase + off) size v) :: rest → ∃ r, step s = .refused r)

/-- 70_reset_and_hazards.md R245: while BUSY, a write to any register, BUF byte or POS word is refused, and no write within the
window takes a step, whatever its shape. -/
def Obligations.WritesWhileBusyAreRefused : Prop :=
  ∀ (s : State) (addr size : Nat) (v : Word) (rest : List HostOp), s.turn = .host → s.busy = true →
    s.hostOps = .access (.write addr size v) :: rest →
    (∀ p, s.locate addr size = .next p → step s = .refused .writeWhileBusy) ∧
    (s.blockBase ≤ addr → addr < s.blockBase + 2 ^ 32 → ∃ r, step s = .refused r)

/-- Log 11 (DESIGN CHOICE): an access to a host address outside the window, where 20_memory.md R60 places nothing and no rule says
what happens, faults in the model, busy or not. -/
def Obligations.AccessesOutsideTheWindowFault : Prop :=
  ∀ (s : State) (addr size : Nat) (v : Word) (rest : List HostOp), s.turn = .host →
    (addr < s.blockBase ∨ s.blockBase + 2 ^ 32 ≤ addr) →
    (s.hostOps = .access (.read addr size) :: rest → step s = .fault .outsideWindow) ∧
    (s.hostOps = .access (.write addr size v) :: rest → step s = .fault .outsideWindow)

/-- 70_reset_and_hazards.md R246: while BUSY, a read of STATUS answers STATUS with BUSY = 1, the rest as the previous command left
it; a read of any other place answers some value (a free value, log 5) and changes nothing of the block. -/
def Obligations.ReadsWhileBusy : Prop :=
  ∀ (s : State) (addr size : Nat) (p : Place) (rest : List HostOp), s.turn = .host → s.busy = true →
    s.hostOps = .access (.read addr size) :: rest → s.locate addr size = .next p →
    (p = .reg .status →
      step s = .next { s with
        schedule := s.schedule.tail, hostOps := rest, noted := .word s.statusWord :: s.noted } ∧
      s.statusWord.getLsbD 0 = true) ∧
    (p ≠ .reg .status →
      ∃ v, step s = .next { s with
        schedule := s.schedule.tail, hostOps := rest, noted := v :: s.noted, draws := s.draws + 1 })

/-- 10_state.md R24, R33, R39 and R40: no turn of the host changes STATUS but for BUSY, an output register, the error registers or
a capacity. -/
def Obligations.HostCannotChangeReadOnlyState : Prop :=
  ∀ s t : State, s.turn = .host → step s = .next t →
    t.err = s.err ∧ t.cause = s.cause ∧ t.field = s.field ∧ t.faultSeen = s.faultSeen ∧
    t.xOut = s.xOut ∧ t.yOut = s.yOut ∧ t.zOut = s.zOut ∧ t.errValue = s.errValue ∧ t.errIndex = s.errIndex ∧
    t.bufCap = s.bufCap ∧ t.posCap = s.posCap

/-- 10_state.md R22, R24: only a host write of CMD makes the block busy, with the word written. -/
def Obligations.OnlyACmdWriteStartsACommand : Prop :=
  ∀ (s t : State) (w : Word), step s = .next t → s.pending = none → t.pending = some w →
    s.turn = .host ∧ ∃ rest, s.hostOps = .access (.write s.blockBase 4 w) :: rest

/-- 60_exceptions.md R200, R213: no command and no reset stops, so a step stops only on a host access: with a refusal, inside the
window; with the fault, outside it, where stopping is the model's choice (log 11). -/
def Obligations.StopsOnlyOnAHostAccess : Prop :=
  ∀ s : State,
    (∀ f, step s = .fault f → s.turn = .host ∧ ∃ addr size v rest,
      (s.hostOps = .access (.read addr size) :: rest ∨ s.hostOps = .access (.write addr size v) :: rest) ∧
      (addr < s.blockBase ∨ s.blockBase + 2 ^ 32 ≤ addr)) ∧
    ∀ r, step s = .refused r → s.turn = .host ∧ ∃ addr size v rest,
      (s.hostOps = .access (.read addr size) :: rest ∨ s.hostOps = .access (.write addr size v) :: rest) ∧
      s.blockBase ≤ addr ∧ addr < s.blockBase + 2 ^ 32

/-! ### The command protocol, reset -/

/-- 30_encoding.md R85, 70_reset_and_hazards.md R244: where no schedule is laid down, `cmd MNEMONIC` on an idle block takes three
steps: the CMD write, the command, and the poll that reads BUSY = 0 and notes STATUS. That the command then runs before any host
access, so that the steps are three, is the model's choice (log 6); that the poll is noted is its reading of `wait` (log 13). -/
def Obligations.CommandLifeCycle : Prop :=
  ∀ (s : State) (i : Instr) (rest : List HostOp), s.busy = false → s.schedule = [] →
    s.hostOps = asmCmd s.blockBase i ++ rest →
    ∃ t, exec i { s with pending := some (encode i), hostOps := .wait :: rest } = .next t ∧
      Host.Core.run core 3 s = .next { t with hostOps := rest, noted := .word t.statusWord :: t.noted }

/-- 30_encoding.md R85: a poll of `wait` notes STATUS, and the host's program goes on exactly when BUSY reads 0 (log 13). -/
def Obligations.WaitPollsStatus : Prop :=
  ∀ (s : State) (rest : List HostOp), s.turn = .host → s.hostOps = .wait :: rest →
    step s = .next { s with
      schedule := s.schedule.tail
      hostOps := if s.busy = true then .wait :: rest else rest
      noted := .word s.statusWord :: s.noted }

/-- 70_reset_and_hazards.md R247: while the host only polls STATUS, a pending command completes after finitely many steps, unless a
reset cancels it first (R240). Whatever the schedule, the block is not busy after at most the schedule's turns and one step. If the
schedule holds no reset, the host's polls leave the block as it was, until the block's turn runs the pending word to its completion.
The bound, the rest of the schedule and one step, is the model's (log 6): the spec gives none. -/
def Obligations.PendingCommandCompletes : Prop :=
  ∀ (s : State) (w : Word), s.pending = some w →
    (∀ op ∈ s.hostOps, op = .wait ∨ op = .access (.read (s.blockBase + 4) 4)) →
    (∃ n t, n ≤ s.schedule.length + 1 ∧ Host.Core.run core n s = .next t ∧ t.busy = false) ∧
    (Turn.reset ∉ s.schedule →
      ∃ n u t, n ≤ s.schedule.length ∧ Host.Core.run core n s = .next u ∧
        u = { s with schedule := u.schedule, hostOps := u.hostOps, noted := u.noted } ∧ u.turn = .block ∧
        State.runCommand { u with schedule := u.schedule.tail } w = .next t ∧
        Host.Core.run core (n + 1) s = .next t ∧ t.pending = none)

/-- 70_reset_and_hazards.md R240: the reset event cancels a pending command, gives every register its reset value, keeps the
parameters, and draws BUF and POS anew (nothing listed, a new reset count: log 3, 4); the host agent stays (log 9). -/
def Obligations.ResetEvent : Prop :=
  ∀ s : State, s.turn = .reset →
    step s = .next {
      pending := none, err := false, cause := .none, field := .none, faultSeen := false
      xIn := 0#32, yIn := 0#32, zIn := 0#32, packed := 0#32, half := false
      xOut := 0#32, yOut := 0#32, zOut := 0#32, bitOffset := 0#32, numBits := 0#32, bitval := 0#32
      count := 0#32, bufLen := 0#32, errValue := 0#32, errIndex := 0#32
      bufCap := s.bufCap, posCap := s.posCap, mem := [], blockBase := s.blockBase, epoch := s.epoch + 1
      draws := s.draws, hostOps := s.hostOps, schedule := s.schedule.tail, noted := s.noted }

/-- 70_reset_and_hazards.md R240: what the reset state holds: STATUS reads 0, every register is 0, no command is pending. -/
def Obligations.ResetStateValues : Prop :=
  State.reset.pending = none ∧ State.reset.statusWord = 0#32 ∧ State.reset.xIn = 0#32 ∧ State.reset.yIn = 0#32 ∧
    State.reset.zIn = 0#32 ∧ State.reset.packed = 0#32 ∧ State.reset.halfWord = 0#32 ∧ State.reset.xOut = 0#32 ∧
    State.reset.yOut = 0#32 ∧ State.reset.zOut = 0#32 ∧ State.reset.bitOffset = 0#32 ∧ State.reset.numBits = 0#32 ∧
    State.reset.bitval = 0#32 ∧ State.reset.count = 0#32 ∧ State.reset.bufLen = 0#32 ∧ State.reset.errValue = 0#32 ∧
    State.reset.errIndex = 0#32

/-! ### Invariants that every step keeps -/

/-- The canonical form of memory (log 3), whoever moves. -/
def Obligations.MemoryStaysCanonical : Prop :=
  ∀ s t : State, Memory.wf s.mem → step s = .next t → Memory.wf t.mem

/-- 20_memory.md R60, R70, 10_state.md R38, R40: BUF_LEN stays a legal length, the parameters stay, and no step writes a byte
outside BUF and the coordinate words of POS. -/
def Obligations.StorageStaysInBounds : Prop :=
  ∀ s t : State, s.storageOk → step s = .next t →
    t.storageOk ∧ t.bufCap = s.bufCap ∧ t.posCap = s.posCap ∧ t.blockBase = s.blockBase

/-- 10_state.md R25 to R28 and R39: the STATUS fields, ERR_VALUE and ERR_INDEX always agree: ERR = 1 exactly when CAUSE is not
NONE, FIELD is non-zero exactly when CAUSE = RANGE, ERR = 1 only with FAULT_SEEN = 1, ERR_VALUE = 0 after a success, and
ERR_INDEX = 0 unless CAUSE = RANGE. -/
def Obligations.StatusStaysCoherent : Prop :=
  ∀ s t : State, s.statusOk → step s = .next t → t.statusOk

/-- 10_state.md R33: X_OUT and Z_OUT stay 0 to 15 and Y_OUT stays -64 to 447. -/
def Obligations.OutputsStayInDecodedRange : Prop :=
  ∀ s t : State, s.outputsOk → step s = .next t → t.outputsOk

/-- The invariants hold after reset, whatever the parameters (legal ones, for storage), and in `State.reset` (log 1, 2). -/
def Obligations.ResetMeetsTheInvariants : Prop :=
  (∀ (bufCap posCap : Word) (base : Nat),
    Memory.wf (State.resetWith bufCap posCap base).mem ∧
    (paramsOk bufCap posCap = true → (State.resetWith bufCap posCap base).storageOk) ∧
    (State.resetWith bufCap posCap base).statusOk ∧ (State.resetWith bufCap posCap base).outputsOk) ∧
  Memory.wf State.reset.mem ∧ State.reset.storageOk ∧ State.reset.statusOk ∧ State.reset.outputsOk
end

