-- ==== Sys2Proof/Laws/State.lean ====
section
/-! SUPPORT. One lemma per field of the state per update: what each update leaves in each field. -/

namespace Sys2Proof.Machine

/-! ### setPacked -/

@[simp] theorem State.setPacked_pending (s : State) (p : Word) : (s.setPacked p).pending = s.pending := rfl
@[simp] theorem State.setPacked_err (s : State) (p : Word) : (s.setPacked p).err = s.err := rfl
@[simp] theorem State.setPacked_cause (s : State) (p : Word) : (s.setPacked p).cause = s.cause := rfl
@[simp] theorem State.setPacked_field (s : State) (p : Word) : (s.setPacked p).field = s.field := rfl
@[simp] theorem State.setPacked_faultSeen (s : State) (p : Word) : (s.setPacked p).faultSeen = s.faultSeen := rfl
@[simp] theorem State.setPacked_xIn (s : State) (p : Word) : (s.setPacked p).xIn = s.xIn := rfl
@[simp] theorem State.setPacked_yIn (s : State) (p : Word) : (s.setPacked p).yIn = s.yIn := rfl
@[simp] theorem State.setPacked_zIn (s : State) (p : Word) : (s.setPacked p).zIn = s.zIn := rfl
@[simp] theorem State.setPacked_packed (s : State) (p : Word) : (s.setPacked p).packed = p := rfl
@[simp] theorem State.setPacked_half (s : State) (p : Word) : (s.setPacked p).half = s.half := rfl
@[simp] theorem State.setPacked_xOut (s : State) (p : Word) : (s.setPacked p).xOut = s.xOut := rfl
@[simp] theorem State.setPacked_yOut (s : State) (p : Word) : (s.setPacked p).yOut = s.yOut := rfl
@[simp] theorem State.setPacked_zOut (s : State) (p : Word) : (s.setPacked p).zOut = s.zOut := rfl
@[simp] theorem State.setPacked_bitOffset (s : State) (p : Word) : (s.setPacked p).bitOffset = s.bitOffset := rfl
@[simp] theorem State.setPacked_numBits (s : State) (p : Word) : (s.setPacked p).numBits = s.numBits := rfl
@[simp] theorem State.setPacked_bitval (s : State) (p : Word) : (s.setPacked p).bitval = s.bitval := rfl
@[simp] theorem State.setPacked_count (s : State) (p : Word) : (s.setPacked p).count = s.count := rfl
@[simp] theorem State.setPacked_bufLen (s : State) (p : Word) : (s.setPacked p).bufLen = s.bufLen := rfl
@[simp] theorem State.setPacked_errValue (s : State) (p : Word) : (s.setPacked p).errValue = s.errValue := rfl
@[simp] theorem State.setPacked_errIndex (s : State) (p : Word) : (s.setPacked p).errIndex = s.errIndex := rfl
@[simp] theorem State.setPacked_bufCap (s : State) (p : Word) : (s.setPacked p).bufCap = s.bufCap := rfl
@[simp] theorem State.setPacked_posCap (s : State) (p : Word) : (s.setPacked p).posCap = s.posCap := rfl
@[simp] theorem State.setPacked_mem (s : State) (p : Word) : (s.setPacked p).mem = s.mem := rfl
@[simp] theorem State.setPacked_blockBase (s : State) (p : Word) : (s.setPacked p).blockBase = s.blockBase := rfl
@[simp] theorem State.setPacked_epoch (s : State) (p : Word) : (s.setPacked p).epoch = s.epoch := rfl
@[simp] theorem State.setPacked_draws (s : State) (p : Word) : (s.setPacked p).draws = s.draws := rfl
@[simp] theorem State.setPacked_hostOps (s : State) (p : Word) : (s.setPacked p).hostOps = s.hostOps := rfl
@[simp] theorem State.setPacked_schedule (s : State) (p : Word) : (s.setPacked p).schedule = s.schedule := rfl
@[simp] theorem State.setPacked_noted (s : State) (p : Word) : (s.setPacked p).noted = s.noted := rfl

/-! ### setHalf -/

@[simp] theorem State.setHalf_pending (s : State) (h : Bool) : (s.setHalf h).pending = s.pending := rfl
@[simp] theorem State.setHalf_err (s : State) (h : Bool) : (s.setHalf h).err = s.err := rfl
@[simp] theorem State.setHalf_cause (s : State) (h : Bool) : (s.setHalf h).cause = s.cause := rfl
@[simp] theorem State.setHalf_field (s : State) (h : Bool) : (s.setHalf h).field = s.field := rfl
@[simp] theorem State.setHalf_faultSeen (s : State) (h : Bool) : (s.setHalf h).faultSeen = s.faultSeen := rfl
@[simp] theorem State.setHalf_xIn (s : State) (h : Bool) : (s.setHalf h).xIn = s.xIn := rfl
@[simp] theorem State.setHalf_yIn (s : State) (h : Bool) : (s.setHalf h).yIn = s.yIn := rfl
@[simp] theorem State.setHalf_zIn (s : State) (h : Bool) : (s.setHalf h).zIn = s.zIn := rfl
@[simp] theorem State.setHalf_packed (s : State) (h : Bool) : (s.setHalf h).packed = s.packed := rfl
@[simp] theorem State.setHalf_half (s : State) (h : Bool) : (s.setHalf h).half = h := rfl
@[simp] theorem State.setHalf_xOut (s : State) (h : Bool) : (s.setHalf h).xOut = s.xOut := rfl
@[simp] theorem State.setHalf_yOut (s : State) (h : Bool) : (s.setHalf h).yOut = s.yOut := rfl
@[simp] theorem State.setHalf_zOut (s : State) (h : Bool) : (s.setHalf h).zOut = s.zOut := rfl
@[simp] theorem State.setHalf_bitOffset (s : State) (h : Bool) : (s.setHalf h).bitOffset = s.bitOffset := rfl
@[simp] theorem State.setHalf_numBits (s : State) (h : Bool) : (s.setHalf h).numBits = s.numBits := rfl
@[simp] theorem State.setHalf_bitval (s : State) (h : Bool) : (s.setHalf h).bitval = s.bitval := rfl
@[simp] theorem State.setHalf_count (s : State) (h : Bool) : (s.setHalf h).count = s.count := rfl
@[simp] theorem State.setHalf_bufLen (s : State) (h : Bool) : (s.setHalf h).bufLen = s.bufLen := rfl
@[simp] theorem State.setHalf_errValue (s : State) (h : Bool) : (s.setHalf h).errValue = s.errValue := rfl
@[simp] theorem State.setHalf_errIndex (s : State) (h : Bool) : (s.setHalf h).errIndex = s.errIndex := rfl
@[simp] theorem State.setHalf_bufCap (s : State) (h : Bool) : (s.setHalf h).bufCap = s.bufCap := rfl
@[simp] theorem State.setHalf_posCap (s : State) (h : Bool) : (s.setHalf h).posCap = s.posCap := rfl
@[simp] theorem State.setHalf_mem (s : State) (h : Bool) : (s.setHalf h).mem = s.mem := rfl
@[simp] theorem State.setHalf_blockBase (s : State) (h : Bool) : (s.setHalf h).blockBase = s.blockBase := rfl
@[simp] theorem State.setHalf_epoch (s : State) (h : Bool) : (s.setHalf h).epoch = s.epoch := rfl
@[simp] theorem State.setHalf_draws (s : State) (h : Bool) : (s.setHalf h).draws = s.draws := rfl
@[simp] theorem State.setHalf_hostOps (s : State) (h : Bool) : (s.setHalf h).hostOps = s.hostOps := rfl
@[simp] theorem State.setHalf_schedule (s : State) (h : Bool) : (s.setHalf h).schedule = s.schedule := rfl
@[simp] theorem State.setHalf_noted (s : State) (h : Bool) : (s.setHalf h).noted = s.noted := rfl

/-! ### setOut -/

@[simp] theorem State.setOut_pending (s : State) (c : Coord) : (s.setOut c).pending = s.pending := rfl
@[simp] theorem State.setOut_err (s : State) (c : Coord) : (s.setOut c).err = s.err := rfl
@[simp] theorem State.setOut_cause (s : State) (c : Coord) : (s.setOut c).cause = s.cause := rfl
@[simp] theorem State.setOut_field (s : State) (c : Coord) : (s.setOut c).field = s.field := rfl
@[simp] theorem State.setOut_faultSeen (s : State) (c : Coord) : (s.setOut c).faultSeen = s.faultSeen := rfl
@[simp] theorem State.setOut_xIn (s : State) (c : Coord) : (s.setOut c).xIn = s.xIn := rfl
@[simp] theorem State.setOut_yIn (s : State) (c : Coord) : (s.setOut c).yIn = s.yIn := rfl
@[simp] theorem State.setOut_zIn (s : State) (c : Coord) : (s.setOut c).zIn = s.zIn := rfl
@[simp] theorem State.setOut_packed (s : State) (c : Coord) : (s.setOut c).packed = s.packed := rfl
@[simp] theorem State.setOut_half (s : State) (c : Coord) : (s.setOut c).half = s.half := rfl
@[simp] theorem State.setOut_xOut (s : State) (c : Coord) : (s.setOut c).xOut = zext32 c.x.toNat := rfl
@[simp] theorem State.setOut_yOut (s : State) (c : Coord) : (s.setOut c).yOut = u32 c.y := rfl
@[simp] theorem State.setOut_zOut (s : State) (c : Coord) : (s.setOut c).zOut = zext32 c.z.toNat := rfl
@[simp] theorem State.setOut_bitOffset (s : State) (c : Coord) : (s.setOut c).bitOffset = s.bitOffset := rfl
@[simp] theorem State.setOut_numBits (s : State) (c : Coord) : (s.setOut c).numBits = s.numBits := rfl
@[simp] theorem State.setOut_bitval (s : State) (c : Coord) : (s.setOut c).bitval = s.bitval := rfl
@[simp] theorem State.setOut_count (s : State) (c : Coord) : (s.setOut c).count = s.count := rfl
@[simp] theorem State.setOut_bufLen (s : State) (c : Coord) : (s.setOut c).bufLen = s.bufLen := rfl
@[simp] theorem State.setOut_errValue (s : State) (c : Coord) : (s.setOut c).errValue = s.errValue := rfl
@[simp] theorem State.setOut_errIndex (s : State) (c : Coord) : (s.setOut c).errIndex = s.errIndex := rfl
@[simp] theorem State.setOut_bufCap (s : State) (c : Coord) : (s.setOut c).bufCap = s.bufCap := rfl
@[simp] theorem State.setOut_posCap (s : State) (c : Coord) : (s.setOut c).posCap = s.posCap := rfl
@[simp] theorem State.setOut_mem (s : State) (c : Coord) : (s.setOut c).mem = s.mem := rfl
@[simp] theorem State.setOut_blockBase (s : State) (c : Coord) : (s.setOut c).blockBase = s.blockBase := rfl
@[simp] theorem State.setOut_epoch (s : State) (c : Coord) : (s.setOut c).epoch = s.epoch := rfl
@[simp] theorem State.setOut_draws (s : State) (c : Coord) : (s.setOut c).draws = s.draws := rfl
@[simp] theorem State.setOut_hostOps (s : State) (c : Coord) : (s.setOut c).hostOps = s.hostOps := rfl
@[simp] theorem State.setOut_schedule (s : State) (c : Coord) : (s.setOut c).schedule = s.schedule := rfl
@[simp] theorem State.setOut_noted (s : State) (c : Coord) : (s.setOut c).noted = s.noted := rfl

/-! ### setBitval -/

@[simp] theorem State.setBitval_pending (s : State) (v : Word) : (s.setBitval v).pending = s.pending := rfl
@[simp] theorem State.setBitval_err (s : State) (v : Word) : (s.setBitval v).err = s.err := rfl
@[simp] theorem State.setBitval_cause (s : State) (v : Word) : (s.setBitval v).cause = s.cause := rfl
@[simp] theorem State.setBitval_field (s : State) (v : Word) : (s.setBitval v).field = s.field := rfl
@[simp] theorem State.setBitval_faultSeen (s : State) (v : Word) : (s.setBitval v).faultSeen = s.faultSeen := rfl
@[simp] theorem State.setBitval_xIn (s : State) (v : Word) : (s.setBitval v).xIn = s.xIn := rfl
@[simp] theorem State.setBitval_yIn (s : State) (v : Word) : (s.setBitval v).yIn = s.yIn := rfl
@[simp] theorem State.setBitval_zIn (s : State) (v : Word) : (s.setBitval v).zIn = s.zIn := rfl
@[simp] theorem State.setBitval_packed (s : State) (v : Word) : (s.setBitval v).packed = s.packed := rfl
@[simp] theorem State.setBitval_half (s : State) (v : Word) : (s.setBitval v).half = s.half := rfl
@[simp] theorem State.setBitval_xOut (s : State) (v : Word) : (s.setBitval v).xOut = s.xOut := rfl
@[simp] theorem State.setBitval_yOut (s : State) (v : Word) : (s.setBitval v).yOut = s.yOut := rfl
@[simp] theorem State.setBitval_zOut (s : State) (v : Word) : (s.setBitval v).zOut = s.zOut := rfl
@[simp] theorem State.setBitval_bitOffset (s : State) (v : Word) : (s.setBitval v).bitOffset = s.bitOffset := rfl
@[simp] theorem State.setBitval_numBits (s : State) (v : Word) : (s.setBitval v).numBits = s.numBits := rfl
@[simp] theorem State.setBitval_bitval (s : State) (v : Word) : (s.setBitval v).bitval = v := rfl
@[simp] theorem State.setBitval_count (s : State) (v : Word) : (s.setBitval v).count = s.count := rfl
@[simp] theorem State.setBitval_bufLen (s : State) (v : Word) : (s.setBitval v).bufLen = s.bufLen := rfl
@[simp] theorem State.setBitval_errValue (s : State) (v : Word) : (s.setBitval v).errValue = s.errValue := rfl
@[simp] theorem State.setBitval_errIndex (s : State) (v : Word) : (s.setBitval v).errIndex = s.errIndex := rfl
@[simp] theorem State.setBitval_bufCap (s : State) (v : Word) : (s.setBitval v).bufCap = s.bufCap := rfl
@[simp] theorem State.setBitval_posCap (s : State) (v : Word) : (s.setBitval v).posCap = s.posCap := rfl
@[simp] theorem State.setBitval_mem (s : State) (v : Word) : (s.setBitval v).mem = s.mem := rfl
@[simp] theorem State.setBitval_blockBase (s : State) (v : Word) : (s.setBitval v).blockBase = s.blockBase := rfl
@[simp] theorem State.setBitval_epoch (s : State) (v : Word) : (s.setBitval v).epoch = s.epoch := rfl
@[simp] theorem State.setBitval_draws (s : State) (v : Word) : (s.setBitval v).draws = s.draws := rfl
@[simp] theorem State.setBitval_hostOps (s : State) (v : Word) : (s.setBitval v).hostOps = s.hostOps := rfl
@[simp] theorem State.setBitval_schedule (s : State) (v : Word) : (s.setBitval v).schedule = s.schedule := rfl
@[simp] theorem State.setBitval_noted (s : State) (v : Word) : (s.setBitval v).noted = s.noted := rfl

/-! ### setBufLen -/

@[simp] theorem State.setBufLen_pending (s : State) (l : Word) : (s.setBufLen l).pending = s.pending := rfl
@[simp] theorem State.setBufLen_err (s : State) (l : Word) : (s.setBufLen l).err = s.err := rfl
@[simp] theorem State.setBufLen_cause (s : State) (l : Word) : (s.setBufLen l).cause = s.cause := rfl
@[simp] theorem State.setBufLen_field (s : State) (l : Word) : (s.setBufLen l).field = s.field := rfl
@[simp] theorem State.setBufLen_faultSeen (s : State) (l : Word) : (s.setBufLen l).faultSeen = s.faultSeen := rfl
@[simp] theorem State.setBufLen_xIn (s : State) (l : Word) : (s.setBufLen l).xIn = s.xIn := rfl
@[simp] theorem State.setBufLen_yIn (s : State) (l : Word) : (s.setBufLen l).yIn = s.yIn := rfl
@[simp] theorem State.setBufLen_zIn (s : State) (l : Word) : (s.setBufLen l).zIn = s.zIn := rfl
@[simp] theorem State.setBufLen_packed (s : State) (l : Word) : (s.setBufLen l).packed = s.packed := rfl
@[simp] theorem State.setBufLen_half (s : State) (l : Word) : (s.setBufLen l).half = s.half := rfl
@[simp] theorem State.setBufLen_xOut (s : State) (l : Word) : (s.setBufLen l).xOut = s.xOut := rfl
@[simp] theorem State.setBufLen_yOut (s : State) (l : Word) : (s.setBufLen l).yOut = s.yOut := rfl
@[simp] theorem State.setBufLen_zOut (s : State) (l : Word) : (s.setBufLen l).zOut = s.zOut := rfl
@[simp] theorem State.setBufLen_bitOffset (s : State) (l : Word) : (s.setBufLen l).bitOffset = s.bitOffset := rfl
@[simp] theorem State.setBufLen_numBits (s : State) (l : Word) : (s.setBufLen l).numBits = s.numBits := rfl
@[simp] theorem State.setBufLen_bitval (s : State) (l : Word) : (s.setBufLen l).bitval = s.bitval := rfl
@[simp] theorem State.setBufLen_count (s : State) (l : Word) : (s.setBufLen l).count = s.count := rfl
@[simp] theorem State.setBufLen_bufLen (s : State) (l : Word) : (s.setBufLen l).bufLen = l := rfl
@[simp] theorem State.setBufLen_errValue (s : State) (l : Word) : (s.setBufLen l).errValue = s.errValue := rfl
@[simp] theorem State.setBufLen_errIndex (s : State) (l : Word) : (s.setBufLen l).errIndex = s.errIndex := rfl
@[simp] theorem State.setBufLen_bufCap (s : State) (l : Word) : (s.setBufLen l).bufCap = s.bufCap := rfl
@[simp] theorem State.setBufLen_posCap (s : State) (l : Word) : (s.setBufLen l).posCap = s.posCap := rfl
@[simp] theorem State.setBufLen_mem (s : State) (l : Word) : (s.setBufLen l).mem = s.mem := rfl
@[simp] theorem State.setBufLen_blockBase (s : State) (l : Word) : (s.setBufLen l).blockBase = s.blockBase := rfl
@[simp] theorem State.setBufLen_epoch (s : State) (l : Word) : (s.setBufLen l).epoch = s.epoch := rfl
@[simp] theorem State.setBufLen_draws (s : State) (l : Word) : (s.setBufLen l).draws = s.draws := rfl
@[simp] theorem State.setBufLen_hostOps (s : State) (l : Word) : (s.setBufLen l).hostOps = s.hostOps := rfl
@[simp] theorem State.setBufLen_schedule (s : State) (l : Word) : (s.setBufLen l).schedule = s.schedule := rfl
@[simp] theorem State.setBufLen_noted (s : State) (l : Word) : (s.setBufLen l).noted = s.noted := rfl

/-! ### setMem -/

@[simp] theorem State.setMem_pending (s : State) (m : Memory) : (s.setMem m).pending = s.pending := rfl
@[simp] theorem State.setMem_err (s : State) (m : Memory) : (s.setMem m).err = s.err := rfl
@[simp] theorem State.setMem_cause (s : State) (m : Memory) : (s.setMem m).cause = s.cause := rfl
@[simp] theorem State.setMem_field (s : State) (m : Memory) : (s.setMem m).field = s.field := rfl
@[simp] theorem State.setMem_faultSeen (s : State) (m : Memory) : (s.setMem m).faultSeen = s.faultSeen := rfl
@[simp] theorem State.setMem_xIn (s : State) (m : Memory) : (s.setMem m).xIn = s.xIn := rfl
@[simp] theorem State.setMem_yIn (s : State) (m : Memory) : (s.setMem m).yIn = s.yIn := rfl
@[simp] theorem State.setMem_zIn (s : State) (m : Memory) : (s.setMem m).zIn = s.zIn := rfl
@[simp] theorem State.setMem_packed (s : State) (m : Memory) : (s.setMem m).packed = s.packed := rfl
@[simp] theorem State.setMem_half (s : State) (m : Memory) : (s.setMem m).half = s.half := rfl
@[simp] theorem State.setMem_xOut (s : State) (m : Memory) : (s.setMem m).xOut = s.xOut := rfl
@[simp] theorem State.setMem_yOut (s : State) (m : Memory) : (s.setMem m).yOut = s.yOut := rfl
@[simp] theorem State.setMem_zOut (s : State) (m : Memory) : (s.setMem m).zOut = s.zOut := rfl
@[simp] theorem State.setMem_bitOffset (s : State) (m : Memory) : (s.setMem m).bitOffset = s.bitOffset := rfl
@[simp] theorem State.setMem_numBits (s : State) (m : Memory) : (s.setMem m).numBits = s.numBits := rfl
@[simp] theorem State.setMem_bitval (s : State) (m : Memory) : (s.setMem m).bitval = s.bitval := rfl
@[simp] theorem State.setMem_count (s : State) (m : Memory) : (s.setMem m).count = s.count := rfl
@[simp] theorem State.setMem_bufLen (s : State) (m : Memory) : (s.setMem m).bufLen = s.bufLen := rfl
@[simp] theorem State.setMem_errValue (s : State) (m : Memory) : (s.setMem m).errValue = s.errValue := rfl
@[simp] theorem State.setMem_errIndex (s : State) (m : Memory) : (s.setMem m).errIndex = s.errIndex := rfl
@[simp] theorem State.setMem_bufCap (s : State) (m : Memory) : (s.setMem m).bufCap = s.bufCap := rfl
@[simp] theorem State.setMem_posCap (s : State) (m : Memory) : (s.setMem m).posCap = s.posCap := rfl
@[simp] theorem State.setMem_mem (s : State) (m : Memory) : (s.setMem m).mem = m := rfl
@[simp] theorem State.setMem_blockBase (s : State) (m : Memory) : (s.setMem m).blockBase = s.blockBase := rfl
@[simp] theorem State.setMem_epoch (s : State) (m : Memory) : (s.setMem m).epoch = s.epoch := rfl
@[simp] theorem State.setMem_draws (s : State) (m : Memory) : (s.setMem m).draws = s.draws := rfl
@[simp] theorem State.setMem_hostOps (s : State) (m : Memory) : (s.setMem m).hostOps = s.hostOps := rfl
@[simp] theorem State.setMem_schedule (s : State) (m : Memory) : (s.setMem m).schedule = s.schedule := rfl
@[simp] theorem State.setMem_noted (s : State) (m : Memory) : (s.setMem m).noted = s.noted := rfl

/-! ### complete -/

@[simp] theorem State.complete_pending (s : State) (r : Report) : (s.complete r).pending = none := rfl
@[simp] theorem State.complete_err (s : State) (r : Report) : (s.complete r).err = r.isError := rfl
@[simp] theorem State.complete_cause (s : State) (r : Report) : (s.complete r).cause = r.cause := rfl
@[simp] theorem State.complete_field (s : State) (r : Report) : (s.complete r).field = r.field := rfl
@[simp] theorem State.complete_faultSeen (s : State) (r : Report) : (s.complete r).faultSeen = (s.faultSeen || r.isError) := rfl
@[simp] theorem State.complete_xIn (s : State) (r : Report) : (s.complete r).xIn = s.xIn := rfl
@[simp] theorem State.complete_yIn (s : State) (r : Report) : (s.complete r).yIn = s.yIn := rfl
@[simp] theorem State.complete_zIn (s : State) (r : Report) : (s.complete r).zIn = s.zIn := rfl
@[simp] theorem State.complete_packed (s : State) (r : Report) : (s.complete r).packed = s.packed := rfl
@[simp] theorem State.complete_half (s : State) (r : Report) : (s.complete r).half = s.half := rfl
@[simp] theorem State.complete_xOut (s : State) (r : Report) : (s.complete r).xOut = s.xOut := rfl
@[simp] theorem State.complete_yOut (s : State) (r : Report) : (s.complete r).yOut = s.yOut := rfl
@[simp] theorem State.complete_zOut (s : State) (r : Report) : (s.complete r).zOut = s.zOut := rfl
@[simp] theorem State.complete_bitOffset (s : State) (r : Report) : (s.complete r).bitOffset = s.bitOffset := rfl
@[simp] theorem State.complete_numBits (s : State) (r : Report) : (s.complete r).numBits = s.numBits := rfl
@[simp] theorem State.complete_bitval (s : State) (r : Report) : (s.complete r).bitval = s.bitval := rfl
@[simp] theorem State.complete_count (s : State) (r : Report) : (s.complete r).count = s.count := rfl
@[simp] theorem State.complete_bufLen (s : State) (r : Report) : (s.complete r).bufLen = s.bufLen := rfl
@[simp] theorem State.complete_errValue (s : State) (r : Report) : (s.complete r).errValue = r.value := rfl
@[simp] theorem State.complete_errIndex (s : State) (r : Report) : (s.complete r).errIndex = r.index := rfl
@[simp] theorem State.complete_bufCap (s : State) (r : Report) : (s.complete r).bufCap = s.bufCap := rfl
@[simp] theorem State.complete_posCap (s : State) (r : Report) : (s.complete r).posCap = s.posCap := rfl
@[simp] theorem State.complete_mem (s : State) (r : Report) : (s.complete r).mem = s.mem := rfl
@[simp] theorem State.complete_blockBase (s : State) (r : Report) : (s.complete r).blockBase = s.blockBase := rfl
@[simp] theorem State.complete_epoch (s : State) (r : Report) : (s.complete r).epoch = s.epoch := rfl
@[simp] theorem State.complete_draws (s : State) (r : Report) : (s.complete r).draws = s.draws := rfl
@[simp] theorem State.complete_hostOps (s : State) (r : Report) : (s.complete r).hostOps = s.hostOps := rfl
@[simp] theorem State.complete_schedule (s : State) (r : Report) : (s.complete r).schedule = s.schedule := rfl
@[simp] theorem State.complete_noted (s : State) (r : Report) : (s.complete r).noted = s.noted := rfl

/-! ### latch -/

@[simp] theorem State.latch_pending (s : State) (w : Word) : (s.latch w).pending = some w := rfl
@[simp] theorem State.latch_err (s : State) (w : Word) : (s.latch w).err = s.err := rfl
@[simp] theorem State.latch_cause (s : State) (w : Word) : (s.latch w).cause = s.cause := rfl
@[simp] theorem State.latch_field (s : State) (w : Word) : (s.latch w).field = s.field := rfl
@[simp] theorem State.latch_faultSeen (s : State) (w : Word) : (s.latch w).faultSeen = s.faultSeen := rfl
@[simp] theorem State.latch_xIn (s : State) (w : Word) : (s.latch w).xIn = s.xIn := rfl
@[simp] theorem State.latch_yIn (s : State) (w : Word) : (s.latch w).yIn = s.yIn := rfl
@[simp] theorem State.latch_zIn (s : State) (w : Word) : (s.latch w).zIn = s.zIn := rfl
@[simp] theorem State.latch_packed (s : State) (w : Word) : (s.latch w).packed = s.packed := rfl
@[simp] theorem State.latch_half (s : State) (w : Word) : (s.latch w).half = s.half := rfl
@[simp] theorem State.latch_xOut (s : State) (w : Word) : (s.latch w).xOut = s.xOut := rfl
@[simp] theorem State.latch_yOut (s : State) (w : Word) : (s.latch w).yOut = s.yOut := rfl
@[simp] theorem State.latch_zOut (s : State) (w : Word) : (s.latch w).zOut = s.zOut := rfl
@[simp] theorem State.latch_bitOffset (s : State) (w : Word) : (s.latch w).bitOffset = s.bitOffset := rfl
@[simp] theorem State.latch_numBits (s : State) (w : Word) : (s.latch w).numBits = s.numBits := rfl
@[simp] theorem State.latch_bitval (s : State) (w : Word) : (s.latch w).bitval = s.bitval := rfl
@[simp] theorem State.latch_count (s : State) (w : Word) : (s.latch w).count = s.count := rfl
@[simp] theorem State.latch_bufLen (s : State) (w : Word) : (s.latch w).bufLen = s.bufLen := rfl
@[simp] theorem State.latch_errValue (s : State) (w : Word) : (s.latch w).errValue = s.errValue := rfl
@[simp] theorem State.latch_errIndex (s : State) (w : Word) : (s.latch w).errIndex = s.errIndex := rfl
@[simp] theorem State.latch_bufCap (s : State) (w : Word) : (s.latch w).bufCap = s.bufCap := rfl
@[simp] theorem State.latch_posCap (s : State) (w : Word) : (s.latch w).posCap = s.posCap := rfl
@[simp] theorem State.latch_mem (s : State) (w : Word) : (s.latch w).mem = s.mem := rfl
@[simp] theorem State.latch_blockBase (s : State) (w : Word) : (s.latch w).blockBase = s.blockBase := rfl
@[simp] theorem State.latch_epoch (s : State) (w : Word) : (s.latch w).epoch = s.epoch := rfl
@[simp] theorem State.latch_draws (s : State) (w : Word) : (s.latch w).draws = s.draws := rfl
@[simp] theorem State.latch_hostOps (s : State) (w : Word) : (s.latch w).hostOps = s.hostOps := rfl
@[simp] theorem State.latch_schedule (s : State) (w : Word) : (s.latch w).schedule = s.schedule := rfl
@[simp] theorem State.latch_noted (s : State) (w : Word) : (s.latch w).noted = s.noted := rfl

/-! ### popTurn -/

@[simp] theorem State.popTurn_pending (s : State) : s.popTurn.pending = s.pending := rfl
@[simp] theorem State.popTurn_err (s : State) : s.popTurn.err = s.err := rfl
@[simp] theorem State.popTurn_cause (s : State) : s.popTurn.cause = s.cause := rfl
@[simp] theorem State.popTurn_field (s : State) : s.popTurn.field = s.field := rfl
@[simp] theorem State.popTurn_faultSeen (s : State) : s.popTurn.faultSeen = s.faultSeen := rfl
@[simp] theorem State.popTurn_xIn (s : State) : s.popTurn.xIn = s.xIn := rfl
@[simp] theorem State.popTurn_yIn (s : State) : s.popTurn.yIn = s.yIn := rfl
@[simp] theorem State.popTurn_zIn (s : State) : s.popTurn.zIn = s.zIn := rfl
@[simp] theorem State.popTurn_packed (s : State) : s.popTurn.packed = s.packed := rfl
@[simp] theorem State.popTurn_half (s : State) : s.popTurn.half = s.half := rfl
@[simp] theorem State.popTurn_xOut (s : State) : s.popTurn.xOut = s.xOut := rfl
@[simp] theorem State.popTurn_yOut (s : State) : s.popTurn.yOut = s.yOut := rfl
@[simp] theorem State.popTurn_zOut (s : State) : s.popTurn.zOut = s.zOut := rfl
@[simp] theorem State.popTurn_bitOffset (s : State) : s.popTurn.bitOffset = s.bitOffset := rfl
@[simp] theorem State.popTurn_numBits (s : State) : s.popTurn.numBits = s.numBits := rfl
@[simp] theorem State.popTurn_bitval (s : State) : s.popTurn.bitval = s.bitval := rfl
@[simp] theorem State.popTurn_count (s : State) : s.popTurn.count = s.count := rfl
@[simp] theorem State.popTurn_bufLen (s : State) : s.popTurn.bufLen = s.bufLen := rfl
@[simp] theorem State.popTurn_errValue (s : State) : s.popTurn.errValue = s.errValue := rfl
@[simp] theorem State.popTurn_errIndex (s : State) : s.popTurn.errIndex = s.errIndex := rfl
@[simp] theorem State.popTurn_bufCap (s : State) : s.popTurn.bufCap = s.bufCap := rfl
@[simp] theorem State.popTurn_posCap (s : State) : s.popTurn.posCap = s.posCap := rfl
@[simp] theorem State.popTurn_mem (s : State) : s.popTurn.mem = s.mem := rfl
@[simp] theorem State.popTurn_blockBase (s : State) : s.popTurn.blockBase = s.blockBase := rfl
@[simp] theorem State.popTurn_epoch (s : State) : s.popTurn.epoch = s.epoch := rfl
@[simp] theorem State.popTurn_draws (s : State) : s.popTurn.draws = s.draws := rfl
@[simp] theorem State.popTurn_hostOps (s : State) : s.popTurn.hostOps = s.hostOps := rfl
@[simp] theorem State.popTurn_schedule (s : State) : s.popTurn.schedule = s.schedule.tail := rfl
@[simp] theorem State.popTurn_noted (s : State) : s.popTurn.noted = s.noted := rfl

/-! ### setHostOps -/

@[simp] theorem State.setHostOps_pending (s : State) (ops : List HostOp) : (s.setHostOps ops).pending = s.pending := rfl
@[simp] theorem State.setHostOps_err (s : State) (ops : List HostOp) : (s.setHostOps ops).err = s.err := rfl
@[simp] theorem State.setHostOps_cause (s : State) (ops : List HostOp) : (s.setHostOps ops).cause = s.cause := rfl
@[simp] theorem State.setHostOps_field (s : State) (ops : List HostOp) : (s.setHostOps ops).field = s.field := rfl
@[simp] theorem State.setHostOps_faultSeen (s : State) (ops : List HostOp) : (s.setHostOps ops).faultSeen = s.faultSeen := rfl
@[simp] theorem State.setHostOps_xIn (s : State) (ops : List HostOp) : (s.setHostOps ops).xIn = s.xIn := rfl
@[simp] theorem State.setHostOps_yIn (s : State) (ops : List HostOp) : (s.setHostOps ops).yIn = s.yIn := rfl
@[simp] theorem State.setHostOps_zIn (s : State) (ops : List HostOp) : (s.setHostOps ops).zIn = s.zIn := rfl
@[simp] theorem State.setHostOps_packed (s : State) (ops : List HostOp) : (s.setHostOps ops).packed = s.packed := rfl
@[simp] theorem State.setHostOps_half (s : State) (ops : List HostOp) : (s.setHostOps ops).half = s.half := rfl
@[simp] theorem State.setHostOps_xOut (s : State) (ops : List HostOp) : (s.setHostOps ops).xOut = s.xOut := rfl
@[simp] theorem State.setHostOps_yOut (s : State) (ops : List HostOp) : (s.setHostOps ops).yOut = s.yOut := rfl
@[simp] theorem State.setHostOps_zOut (s : State) (ops : List HostOp) : (s.setHostOps ops).zOut = s.zOut := rfl
@[simp] theorem State.setHostOps_bitOffset (s : State) (ops : List HostOp) : (s.setHostOps ops).bitOffset = s.bitOffset := rfl
@[simp] theorem State.setHostOps_numBits (s : State) (ops : List HostOp) : (s.setHostOps ops).numBits = s.numBits := rfl
@[simp] theorem State.setHostOps_bitval (s : State) (ops : List HostOp) : (s.setHostOps ops).bitval = s.bitval := rfl
@[simp] theorem State.setHostOps_count (s : State) (ops : List HostOp) : (s.setHostOps ops).count = s.count := rfl
@[simp] theorem State.setHostOps_bufLen (s : State) (ops : List HostOp) : (s.setHostOps ops).bufLen = s.bufLen := rfl
@[simp] theorem State.setHostOps_errValue (s : State) (ops : List HostOp) : (s.setHostOps ops).errValue = s.errValue := rfl
@[simp] theorem State.setHostOps_errIndex (s : State) (ops : List HostOp) : (s.setHostOps ops).errIndex = s.errIndex := rfl
@[simp] theorem State.setHostOps_bufCap (s : State) (ops : List HostOp) : (s.setHostOps ops).bufCap = s.bufCap := rfl
@[simp] theorem State.setHostOps_posCap (s : State) (ops : List HostOp) : (s.setHostOps ops).posCap = s.posCap := rfl
@[simp] theorem State.setHostOps_mem (s : State) (ops : List HostOp) : (s.setHostOps ops).mem = s.mem := rfl
@[simp] theorem State.setHostOps_blockBase (s : State) (ops : List HostOp) : (s.setHostOps ops).blockBase = s.blockBase := rfl
@[simp] theorem State.setHostOps_epoch (s : State) (ops : List HostOp) : (s.setHostOps ops).epoch = s.epoch := rfl
@[simp] theorem State.setHostOps_draws (s : State) (ops : List HostOp) : (s.setHostOps ops).draws = s.draws := rfl
@[simp] theorem State.setHostOps_hostOps (s : State) (ops : List HostOp) : (s.setHostOps ops).hostOps = ops := rfl
@[simp] theorem State.setHostOps_schedule (s : State) (ops : List HostOp) : (s.setHostOps ops).schedule = s.schedule := rfl
@[simp] theorem State.setHostOps_noted (s : State) (ops : List HostOp) : (s.setHostOps ops).noted = s.noted := rfl

/-! ### note -/

@[simp] theorem State.note_pending (s : State) (v : Noted) : (s.note v).pending = s.pending := rfl
@[simp] theorem State.note_err (s : State) (v : Noted) : (s.note v).err = s.err := rfl
@[simp] theorem State.note_cause (s : State) (v : Noted) : (s.note v).cause = s.cause := rfl
@[simp] theorem State.note_field (s : State) (v : Noted) : (s.note v).field = s.field := rfl
@[simp] theorem State.note_faultSeen (s : State) (v : Noted) : (s.note v).faultSeen = s.faultSeen := rfl
@[simp] theorem State.note_xIn (s : State) (v : Noted) : (s.note v).xIn = s.xIn := rfl
@[simp] theorem State.note_yIn (s : State) (v : Noted) : (s.note v).yIn = s.yIn := rfl
@[simp] theorem State.note_zIn (s : State) (v : Noted) : (s.note v).zIn = s.zIn := rfl
@[simp] theorem State.note_packed (s : State) (v : Noted) : (s.note v).packed = s.packed := rfl
@[simp] theorem State.note_half (s : State) (v : Noted) : (s.note v).half = s.half := rfl
@[simp] theorem State.note_xOut (s : State) (v : Noted) : (s.note v).xOut = s.xOut := rfl
@[simp] theorem State.note_yOut (s : State) (v : Noted) : (s.note v).yOut = s.yOut := rfl
@[simp] theorem State.note_zOut (s : State) (v : Noted) : (s.note v).zOut = s.zOut := rfl
@[simp] theorem State.note_bitOffset (s : State) (v : Noted) : (s.note v).bitOffset = s.bitOffset := rfl
@[simp] theorem State.note_numBits (s : State) (v : Noted) : (s.note v).numBits = s.numBits := rfl
@[simp] theorem State.note_bitval (s : State) (v : Noted) : (s.note v).bitval = s.bitval := rfl
@[simp] theorem State.note_count (s : State) (v : Noted) : (s.note v).count = s.count := rfl
@[simp] theorem State.note_bufLen (s : State) (v : Noted) : (s.note v).bufLen = s.bufLen := rfl
@[simp] theorem State.note_errValue (s : State) (v : Noted) : (s.note v).errValue = s.errValue := rfl
@[simp] theorem State.note_errIndex (s : State) (v : Noted) : (s.note v).errIndex = s.errIndex := rfl
@[simp] theorem State.note_bufCap (s : State) (v : Noted) : (s.note v).bufCap = s.bufCap := rfl
@[simp] theorem State.note_posCap (s : State) (v : Noted) : (s.note v).posCap = s.posCap := rfl
@[simp] theorem State.note_mem (s : State) (v : Noted) : (s.note v).mem = s.mem := rfl
@[simp] theorem State.note_blockBase (s : State) (v : Noted) : (s.note v).blockBase = s.blockBase := rfl
@[simp] theorem State.note_epoch (s : State) (v : Noted) : (s.note v).epoch = s.epoch := rfl
@[simp] theorem State.note_draws (s : State) (v : Noted) : (s.note v).draws = s.draws := rfl
@[simp] theorem State.note_hostOps (s : State) (v : Noted) : (s.note v).hostOps = s.hostOps := rfl
@[simp] theorem State.note_schedule (s : State) (v : Noted) : (s.note v).schedule = s.schedule := rfl
@[simp] theorem State.note_noted (s : State) (v : Noted) : (s.note v).noted = v :: s.noted := rfl

/-! ### countDraw -/

@[simp] theorem State.countDraw_pending (s : State) : s.countDraw.pending = s.pending := rfl
@[simp] theorem State.countDraw_err (s : State) : s.countDraw.err = s.err := rfl
@[simp] theorem State.countDraw_cause (s : State) : s.countDraw.cause = s.cause := rfl
@[simp] theorem State.countDraw_field (s : State) : s.countDraw.field = s.field := rfl
@[simp] theorem State.countDraw_faultSeen (s : State) : s.countDraw.faultSeen = s.faultSeen := rfl
@[simp] theorem State.countDraw_xIn (s : State) : s.countDraw.xIn = s.xIn := rfl
@[simp] theorem State.countDraw_yIn (s : State) : s.countDraw.yIn = s.yIn := rfl
@[simp] theorem State.countDraw_zIn (s : State) : s.countDraw.zIn = s.zIn := rfl
@[simp] theorem State.countDraw_packed (s : State) : s.countDraw.packed = s.packed := rfl
@[simp] theorem State.countDraw_half (s : State) : s.countDraw.half = s.half := rfl
@[simp] theorem State.countDraw_xOut (s : State) : s.countDraw.xOut = s.xOut := rfl
@[simp] theorem State.countDraw_yOut (s : State) : s.countDraw.yOut = s.yOut := rfl
@[simp] theorem State.countDraw_zOut (s : State) : s.countDraw.zOut = s.zOut := rfl
@[simp] theorem State.countDraw_bitOffset (s : State) : s.countDraw.bitOffset = s.bitOffset := rfl
@[simp] theorem State.countDraw_numBits (s : State) : s.countDraw.numBits = s.numBits := rfl
@[simp] theorem State.countDraw_bitval (s : State) : s.countDraw.bitval = s.bitval := rfl
@[simp] theorem State.countDraw_count (s : State) : s.countDraw.count = s.count := rfl
@[simp] theorem State.countDraw_bufLen (s : State) : s.countDraw.bufLen = s.bufLen := rfl
@[simp] theorem State.countDraw_errValue (s : State) : s.countDraw.errValue = s.errValue := rfl
@[simp] theorem State.countDraw_errIndex (s : State) : s.countDraw.errIndex = s.errIndex := rfl
@[simp] theorem State.countDraw_bufCap (s : State) : s.countDraw.bufCap = s.bufCap := rfl
@[simp] theorem State.countDraw_posCap (s : State) : s.countDraw.posCap = s.posCap := rfl
@[simp] theorem State.countDraw_mem (s : State) : s.countDraw.mem = s.mem := rfl
@[simp] theorem State.countDraw_blockBase (s : State) : s.countDraw.blockBase = s.blockBase := rfl
@[simp] theorem State.countDraw_epoch (s : State) : s.countDraw.epoch = s.epoch := rfl
@[simp] theorem State.countDraw_draws (s : State) : s.countDraw.draws = s.draws + 1 := rfl
@[simp] theorem State.countDraw_hostOps (s : State) : s.countDraw.hostOps = s.hostOps := rfl
@[simp] theorem State.countDraw_schedule (s : State) : s.countDraw.schedule = s.schedule := rfl
@[simp] theorem State.countDraw_noted (s : State) : s.countDraw.noted = s.noted := rfl

/-! ### blockReset -/

@[simp] theorem State.blockReset_pending (s : State) : s.blockReset.pending = none := rfl
@[simp] theorem State.blockReset_err (s : State) : s.blockReset.err = false := rfl
@[simp] theorem State.blockReset_cause (s : State) : s.blockReset.cause = .none := rfl
@[simp] theorem State.blockReset_field (s : State) : s.blockReset.field = .none := rfl
@[simp] theorem State.blockReset_faultSeen (s : State) : s.blockReset.faultSeen = false := rfl
@[simp] theorem State.blockReset_xIn (s : State) : s.blockReset.xIn = 0#32 := rfl
@[simp] theorem State.blockReset_yIn (s : State) : s.blockReset.yIn = 0#32 := rfl
@[simp] theorem State.blockReset_zIn (s : State) : s.blockReset.zIn = 0#32 := rfl
@[simp] theorem State.blockReset_packed (s : State) : s.blockReset.packed = 0#32 := rfl
@[simp] theorem State.blockReset_half (s : State) : s.blockReset.half = false := rfl
@[simp] theorem State.blockReset_xOut (s : State) : s.blockReset.xOut = 0#32 := rfl
@[simp] theorem State.blockReset_yOut (s : State) : s.blockReset.yOut = 0#32 := rfl
@[simp] theorem State.blockReset_zOut (s : State) : s.blockReset.zOut = 0#32 := rfl
@[simp] theorem State.blockReset_bitOffset (s : State) : s.blockReset.bitOffset = 0#32 := rfl
@[simp] theorem State.blockReset_numBits (s : State) : s.blockReset.numBits = 0#32 := rfl
@[simp] theorem State.blockReset_bitval (s : State) : s.blockReset.bitval = 0#32 := rfl
@[simp] theorem State.blockReset_count (s : State) : s.blockReset.count = 0#32 := rfl
@[simp] theorem State.blockReset_bufLen (s : State) : s.blockReset.bufLen = 0#32 := rfl
@[simp] theorem State.blockReset_errValue (s : State) : s.blockReset.errValue = 0#32 := rfl
@[simp] theorem State.blockReset_errIndex (s : State) : s.blockReset.errIndex = 0#32 := rfl
@[simp] theorem State.blockReset_bufCap (s : State) : s.blockReset.bufCap = s.bufCap := rfl
@[simp] theorem State.blockReset_posCap (s : State) : s.blockReset.posCap = s.posCap := rfl
@[simp] theorem State.blockReset_mem (s : State) : s.blockReset.mem = [] := rfl
@[simp] theorem State.blockReset_blockBase (s : State) : s.blockReset.blockBase = s.blockBase := rfl
@[simp] theorem State.blockReset_epoch (s : State) : s.blockReset.epoch = s.epoch + 1 := rfl
@[simp] theorem State.blockReset_draws (s : State) : s.blockReset.draws = s.draws := rfl
@[simp] theorem State.blockReset_hostOps (s : State) : s.blockReset.hostOps = s.hostOps := rfl
@[simp] theorem State.blockReset_schedule (s : State) : s.blockReset.schedule = s.schedule := rfl
@[simp] theorem State.blockReset_noted (s : State) : s.blockReset.noted = s.noted := rfl

/-! ### succeed -/

@[simp] theorem State.succeed_pending (s : State) : s.succeed.pending = none := rfl
@[simp] theorem State.succeed_err (s : State) : s.succeed.err = false := rfl
@[simp] theorem State.succeed_cause (s : State) : s.succeed.cause = .none := rfl
@[simp] theorem State.succeed_field (s : State) : s.succeed.field = .none := rfl
@[simp] theorem State.succeed_faultSeen (s : State) : s.succeed.faultSeen = s.faultSeen := rfl
@[simp] theorem State.succeed_xIn (s : State) : s.succeed.xIn = s.xIn := rfl
@[simp] theorem State.succeed_yIn (s : State) : s.succeed.yIn = s.yIn := rfl
@[simp] theorem State.succeed_zIn (s : State) : s.succeed.zIn = s.zIn := rfl
@[simp] theorem State.succeed_packed (s : State) : s.succeed.packed = s.packed := rfl
@[simp] theorem State.succeed_half (s : State) : s.succeed.half = s.half := rfl
@[simp] theorem State.succeed_xOut (s : State) : s.succeed.xOut = s.xOut := rfl
@[simp] theorem State.succeed_yOut (s : State) : s.succeed.yOut = s.yOut := rfl
@[simp] theorem State.succeed_zOut (s : State) : s.succeed.zOut = s.zOut := rfl
@[simp] theorem State.succeed_bitOffset (s : State) : s.succeed.bitOffset = s.bitOffset := rfl
@[simp] theorem State.succeed_numBits (s : State) : s.succeed.numBits = s.numBits := rfl
@[simp] theorem State.succeed_bitval (s : State) : s.succeed.bitval = s.bitval := rfl
@[simp] theorem State.succeed_count (s : State) : s.succeed.count = s.count := rfl
@[simp] theorem State.succeed_bufLen (s : State) : s.succeed.bufLen = s.bufLen := rfl
@[simp] theorem State.succeed_errValue (s : State) : s.succeed.errValue = 0#32 := rfl
@[simp] theorem State.succeed_errIndex (s : State) : s.succeed.errIndex = 0#32 := rfl
@[simp] theorem State.succeed_bufCap (s : State) : s.succeed.bufCap = s.bufCap := rfl
@[simp] theorem State.succeed_posCap (s : State) : s.succeed.posCap = s.posCap := rfl
@[simp] theorem State.succeed_mem (s : State) : s.succeed.mem = s.mem := rfl
@[simp] theorem State.succeed_blockBase (s : State) : s.succeed.blockBase = s.blockBase := rfl
@[simp] theorem State.succeed_epoch (s : State) : s.succeed.epoch = s.epoch := rfl
@[simp] theorem State.succeed_draws (s : State) : s.succeed.draws = s.draws := rfl
@[simp] theorem State.succeed_hostOps (s : State) : s.succeed.hostOps = s.hostOps := rfl
@[simp] theorem State.succeed_schedule (s : State) : s.succeed.schedule = s.schedule := rfl
@[simp] theorem State.succeed_noted (s : State) : s.succeed.noted = s.noted := rfl

end Sys2Proof.Machine
end

