-- ==== Sys2Proof/Laws/Codec.lean ====
section
/-! SUPPORT. The laws of the codec's pure functions: the range check, the packed fields as sums and remainders, the argument
check of the bit primitives, and one byte of a bit write. -/

namespace Sys2Proof.Machine

/-! ### The range check -/

/-- All the range check can do: nothing on a valid position, else RANGE on the first bad field. -/
theorem checkRange_eq (c : Coord) (i : Nat) :
    checkRange c i =
      match c.firstBad with
      | none => .ok ()
      | some (f, v) => .error (.range f v i) := by
  simp only [checkRange, Coord.firstBad]
  by_cases hx : c.x < 0 ∨ 15 < c.x
  · simp [show ¬ (0 ≤ c.x ∧ c.x ≤ 15) by omega, hx]
  · by_cases hz : c.z < 0 ∨ 15 < c.z
    · simp [show (0 ≤ c.x ∧ c.x ≤ 15) by omega, show ¬ (0 ≤ c.z ∧ c.z ≤ 15) by omega, hx, hz]
    · by_cases hy : c.y < -64 ∨ 319 < c.y
      · simp [show (0 ≤ c.x ∧ c.x ≤ 15) by omega, show (0 ≤ c.z ∧ c.z ≤ 15) by omega,
          show ¬ (-64 ≤ c.y ∧ c.y ≤ 319) by omega, hx, hz, hy]
      · simp [show (0 ≤ c.x ∧ c.x ≤ 15) by omega, show (0 ≤ c.z ∧ c.z ≤ 15) by omega,
          show (-64 ≤ c.y ∧ c.y ≤ 319) by omega, hx, hz, hy]

/-- No field is bad exactly when the position is valid. -/
theorem Coord.firstBad_eq_none_iff (c : Coord) : c.firstBad = none ↔ c.valid := by
  simp only [Coord.firstBad, Coord.valid]
  split_ifs <;> simp <;> omega

theorem checkRange_of_valid {c : Coord} (h : c.valid) (i : Nat) : checkRange c i = .ok () := by
  rw [checkRange_eq, (Coord.firstBad_eq_none_iff c).2 h]

theorem checkRange_of_firstBad {c : Coord} {f : FieldCode} {v : Int} (h : c.firstBad = some (f, v)) (i : Nat) :
    checkRange c i = .error (.range f v i) := by
  rw [checkRange_eq, h]

/-! ### Packed fields as arithmetic -/

/-- The three fields occupy disjoint bits, so the OR is a sum (40_single_int_codec.md R101). -/
theorem packFields_eq_sum {x z f : Int} (hx : 0 ≤ x ∧ x ≤ 15) (hz : 0 ≤ z ∧ z ≤ 15) :
    packFields x z f = x.toNat + 16 * z.toNat + 256 * f.toNat := by
  have h1 : x.toNat < 2 ^ 4 := by omega
  have h2 : z.toNat <<< 4 + x.toNat < 2 ^ 8 := by rw [Nat.shiftLeft_eq]; omega
  simp only [packFields]
  rw [Nat.lor_comm x.toNat, ← Nat.shiftLeft_add_eq_or_of_lt h1, Nat.lor_comm,
    ← Nat.shiftLeft_add_eq_or_of_lt h2, Nat.shiftLeft_eq, Nat.shiftLeft_eq]
  omega

/-- The fields of the 32-bit form as remainders (40_single_int_codec.md R102). -/
theorem unpack32_eq (p : Nat) :
    unpack32 p = ⟨(p % 16 : Nat), ((p / 256 % 512 : Nat) : Int) - 64, (p / 16 % 16 : Nat)⟩ := by
  simp only [unpack32, Nat.shiftRight_eq_div_pow, show (0xF : Nat) = 2 ^ 4 - 1 from rfl,
    show (0x1FF : Nat) = 2 ^ 9 - 1 from rfl, Nat.and_two_pow_sub_one_eq_mod]

/-- The fields of the 16-bit form as remainders (41_half_split_codec.md R121). -/
theorem unpackHalf_eq (p : Nat) (upper : Bool) :
    unpackHalf p upper =
      ⟨(p % 16 : Nat), (if upper then 128 else -64) + ((p / 256 % 256 : Nat) : Int), (p / 16 % 16 : Nat)⟩ := by
  simp only [unpackHalf, Nat.shiftRight_eq_div_pow, show (0xF : Nat) = 2 ^ 4 - 1 from rfl,
    show (0xFF : Nat) = 2 ^ 8 - 1 from rfl, Nat.and_two_pow_sub_one_eq_mod]
  cases upper <;> rfl

/-- The pattern of a pattern's signed reading is the pattern (00_scope.md R10). -/
@[simp] theorem u32_s32 (w : Word) : u32 (s32 w) = w := BitVec.ofInt_toInt

/-! ### The argument check of the bit primitives -/

theorem bitCheck_of_tooWide {n : Word} (h : 32 < n.toNat) (o len : Word) :
    bitCheck o n len = .error (.illegalArg n) := by
  simp only [bitCheck, if_pos h]

theorem bitCheck_of_outOfBounds {o n len : Word} (hn : n.toNat ≤ 32) (h : 8 * len.toNat < o.toNat + n.toNat) :
    bitCheck o n len = .error (.bounds (o.toNat + n.toNat)) := by
  simp only [bitCheck, if_neg (Nat.not_lt.2 hn), if_pos h]

theorem bitCheck_of_inBounds {o n len : Word} (hn : n.toNat ≤ 32) (h : o.toNat + n.toNat ≤ 8 * len.toNat) :
    bitCheck o n len = .ok () := by
  simp only [bitCheck, if_neg (Nat.not_lt.2 hn), if_neg (Nat.not_lt.2 h)]

/-! ### Lengths and one byte of a bit write -/

@[simp] theorem writeLoop_length (fuel : Nat) (B : List Byte) (pos val remaining : Nat) :
    (writeLoop fuel B pos val remaining).length = B.length := by
  induction fuel generalizing B pos val remaining with
  | zero => rfl
  | succ fuel ih =>
    simp only [writeLoop]
    split
    · rfl
    · rw [ih, List.length_set]

/-- A bit write keeps the length of the byte array (42_bit_buffer.md R140). -/
@[simp] theorem writeBits_length (B : List Byte) (o v n : Nat) : (writeBits B o v n).length = B.length :=
  writeLoop_length n B o v n

/-- One byte of a bit write, bit by bit: the target bits come from the value, the others stay (42_bit_buffer.md R140). -/
theorem mergeByte_getLsbD {old bitIdx k : Nat} (val : Nat) (hk : bitIdx + k ≤ 8) {j : Nat} (hj : j < 8) :
    (mergeByte old bitIdx k val).getLsbD j =
      if bitIdx ≤ j ∧ j < bitIdx + k then val.testBit (j - bitIdx) else old.testBit j := by
  have hmask : ((1 <<< k) - 1) <<< bitIdx ≤ 0xFF := by
    have h1 : (1 <<< k) - 1 < 2 ^ k := by
      rw [Nat.one_shiftLeft]; exact Nat.sub_lt (Nat.two_pow_pos k) Nat.one_pos
    have h2 : ((1 <<< k) - 1) <<< bitIdx < 2 ^ 8 := by
      rw [Nat.shiftLeft_eq]
      calc ((1 <<< k) - 1) * 2 ^ bitIdx < 2 ^ k * 2 ^ bitIdx := Nat.mul_lt_mul_of_pos_right h1 (Nat.two_pow_pos _)
        _ = 2 ^ (bitIdx + k) := by rw [← pow_add, Nat.add_comm]
        _ ≤ 2 ^ 8 := Nat.pow_le_pow_right (by omega) hk
    omega
  have hlt : ((1 <<< k) - 1) <<< bitIdx < 2 ^ 8 := by omega
  have hcomp : (0xFF - (((1 <<< k) - 1) <<< bitIdx)).testBit j =
      (decide (j < 8) && !(((1 <<< k) - 1) <<< bitIdx).testBit j) := by
    have := Nat.testBit_two_pow_sub_succ hlt j
    simpa only [show (2 : Nat) ^ 8 - (((1 <<< k) - 1) <<< bitIdx + 1) = 0xFF - (((1 <<< k) - 1) <<< bitIdx) by omega]
      using this
  simp only [Nat.one_shiftLeft] at hcomp
  simp only [mergeByte, BitVec.getLsbD_ofNat, Nat.testBit_or, Nat.testBit_and, Nat.one_shiftLeft, hcomp,
    Nat.testBit_shiftLeft, Nat.testBit_two_pow_sub_one, hj, decide_true, Bool.true_and]
  by_cases h1 : bitIdx ≤ j
  · by_cases h2 : j < bitIdx + k
    · simp [h1, h2, show j - bitIdx < k by omega]
    · simp [h1, h2, show ¬ j - bitIdx < k by omega]
  · simp [h1]

end Sys2Proof.Machine
end

