-- ==== Sys2Proof/Laws/Memory.lean ====
section
/-! SUPPORT. The laws of memory: a read after a write, a write leaves every other offset alone, and every operation keeps the
canonical form `Memory.wf` and adds entries only where it stores. -/

namespace Sys2Proof.Machine

/-! ### Store of one byte -/

theorem Memory.lookup_store (m : Memory) (a k : Nat) (b : Byte) :
    Memory.lookup (Memory.store m a b) k = if k = a then some b else Memory.lookup m k := by
  induction m with
  | nil =>
    simp only [Memory.store, Memory.lookup]
    by_cases h : k = a <;> simp [h, eq_comm (a := a)]
  | cons c m ih =>
    obtain ⟨x, y⟩ := c
    simp only [Memory.store]
    split
    · by_cases hk : k = a <;> simp [Memory.lookup, hk, eq_comm (a := a)]
    · split
      · rename_i hax
        subst hax
        by_cases hk : k = a
        · simp [Memory.lookup, hk]
        · simp [Memory.lookup, hk, Ne.symm hk]
      · rename_i hax
        simp only [Memory.lookup, ih]
        by_cases hx : x = k
        · subst hx
          simp [Ne.symm hax]
        · simp [hx]

/-- What `store` lists: the new cell and cells that were there. -/
theorem Memory.mem_store {m : Memory} {a : Nat} {b : Byte} {c : Host.Cell} (h : c ∈ Memory.store m a b) :
    c.1 = a ∨ c ∈ m := by
  induction m with
  | nil => simp only [Memory.store, List.mem_singleton] at h; simp [h]
  | cons d m ih =>
    obtain ⟨x, y⟩ := d
    simp only [Memory.store] at h
    split at h
    · simp only [List.mem_cons] at h ⊢
      rcases h with rfl | h | h <;> simp_all
    · split at h
      · simp only [List.mem_cons] at h ⊢
        rcases h with rfl | h <;> simp_all
      · simp only [List.mem_cons] at h ⊢
        rcases h with rfl | h
        · simp
        · rcases ih h with h | h <;> simp [h]

theorem Memory.store_wf {m : Memory} (a : Nat) (b : Byte) (h : Memory.wf m) : Memory.wf (Memory.store m a b) := by
  induction m with
  | nil => simp [Memory.store, Memory.wf]
  | cons d m ih =>
    obtain ⟨x, y⟩ := d
    obtain ⟨hx, hm⟩ := List.pairwise_cons.1 h
    simp only [Memory.store]
    split
    · rename_i hax
      refine List.pairwise_cons.2 ⟨?_, h⟩
      intro c hc
      rcases List.mem_cons.1 hc with rfl | hc
      · exact hax
      · exact Nat.lt_trans hax (hx c hc)
    · split
      · rename_i hax
        subst hax
        exact List.pairwise_cons.2 ⟨hx, hm⟩
      · refine List.pairwise_cons.2 ⟨?_, ih hm⟩
        intro c hc
        rcases Memory.mem_store hc with hc | hc
        · simp only [hc]; omega
        · exact hx c hc

/-! ### Stores of several bytes -/

theorem Memory.storeBytes_wf {m : Memory} (a : Nat) (bs : List Byte) (h : Memory.wf m) :
    Memory.wf (Memory.storeBytes m a bs) := by
  induction bs generalizing m a with
  | nil => exact h
  | cons b bs ih => exact ih (a + 1) (Memory.store_wf a b h)

/-- A store of bytes lists cells in its own range and cells that were there. -/
theorem Memory.mem_storeBytes {m : Memory} {a : Nat} {bs : List Byte} {c : Host.Cell}
    (h : c ∈ Memory.storeBytes m a bs) : (a ≤ c.1 ∧ c.1 < a + bs.length) ∨ c ∈ m := by
  induction bs generalizing m a with
  | nil => exact .inr h
  | cons b bs ih =>
    rcases ih h with h | h
    · refine .inl ⟨by omega, ?_⟩
      simp only [List.length_cons]
      omega
    · rcases Memory.mem_store h with h | h
      · refine .inl ⟨by omega, ?_⟩
        simp only [List.length_cons]
        omega
      · exact .inr h

/-- What an offset holds after a store of bytes: the byte stored there, else what it held. -/
theorem Memory.lookup_storeBytes (m : Memory) (a k : Nat) (bs : List Byte) :
    Memory.lookup (Memory.storeBytes m a bs) k =
      if a ≤ k ∧ k < a + bs.length then bs[k - a]? else Memory.lookup m k := by
  induction bs generalizing m a with
  | nil =>
    have : ¬ (a ≤ k ∧ k < a + ([] : List Byte).length) := by simp only [List.length_nil]; omega
    rw [if_neg this]
    rfl
  | cons b bs ih =>
    simp only [Memory.storeBytes, ih, Memory.lookup_store, List.length_cons]
    by_cases h1 : k = a
    · subst h1
      simp
    · by_cases h2 : a + 1 ≤ k ∧ k < a + 1 + bs.length
      · have h3 : a ≤ k ∧ k < a + (bs.length + 1) := by omega
        have h4 : k - a = (k - (a + 1)) + 1 := by omega
        rw [if_pos h2, if_pos h3, h4, List.getElem?_cons_succ]
      · have h3 : ¬ (a ≤ k ∧ k < a + (bs.length + 1)) := by omega
        rw [if_neg h2, if_neg h3, if_neg h1]

theorem Memory.storeWord_wf {m : Memory} (a : Nat) (w : Word) (h : Memory.wf m) : Memory.wf (Memory.storeWord m a w) :=
  Memory.storeBytes_wf a _ h

theorem Memory.mem_storeWord {m : Memory} {a : Nat} {w : Word} {c : Host.Cell} (h : c ∈ Memory.storeWord m a w) :
    (a ≤ c.1 ∧ c.1 < a + 4) ∨ c ∈ m :=
  Memory.mem_storeBytes h

/-- A store of a word leaves every offset outside its four bytes alone. -/
theorem Memory.lookup_storeWord_of_outside (m : Memory) {a k : Nat} (w : Word) (h : k < a ∨ a + 4 ≤ k) :
    Memory.lookup (Memory.storeWord m a w) k = Memory.lookup m k := by
  have h' : ¬ (a ≤ k ∧ k < a + (wordBytes w).length) := by simp only [wordBytes, List.length_cons, List.length_nil]; omega
  simp only [Memory.storeWord, Memory.lookup_storeBytes, if_neg h']

theorem Memory.storePos_wf {m : Memory} (j : Nat) (c : Coord) (h : Memory.wf m) : Memory.wf (Memory.storePos m j c) :=
  Memory.storeWord_wf _ _ (Memory.storeWord_wf _ _ (Memory.storeWord_wf _ _ h))

theorem Memory.storePositions_wf {m : Memory} (j : Nat) (cs : List Coord) (h : Memory.wf m) :
    Memory.wf (Memory.storePositions m j cs) := by
  induction cs generalizing m j with
  | nil => exact h
  | cons c cs ih => exact ih (j + 1) (Memory.storePos_wf j c h)

/-- A store of positions lists cells of the coordinate words of its entries and cells that were there. -/
theorem Memory.mem_storePositions {m : Memory} {j : Nat} {cs : List Coord} {c : Host.Cell}
    (h : c ∈ Memory.storePositions m j cs) :
    (0x10000 + 16 * j ≤ c.1 ∧ c.1 < 0x10000 + 16 * (j + cs.length) ∧ c.1 % 16 < 12) ∨ c ∈ m := by
  induction cs generalizing m j with
  | nil => exact .inr h
  | cons d cs ih =>
    simp only [List.length_cons]
    rcases ih h with h | h
    · exact .inl (by omega)
    · simp only [Memory.storePos, posAddr] at h
      rcases Memory.mem_storeWord h with h | h
      · exact .inl (by omega)
      · rcases Memory.mem_storeWord h with h | h
        · exact .inl (by omega)
        · rcases Memory.mem_storeWord h with h | h
          · exact .inl (by omega)
          · exact .inr h

/-- A store of positions leaves every offset outside the entries' twelve bytes each alone. -/
theorem Memory.lookup_storePositions_of_outside (m : Memory) (j k : Nat) (cs : List Coord)
    (h : ∀ i < cs.length, k < posAddr (j + i) 0 ∨ posAddr (j + i) 3 ≤ k) :
    Memory.lookup (Memory.storePositions m j cs) k = Memory.lookup m k := by
  induction cs generalizing m j with
  | nil => rfl
  | cons c cs ih =>
    have h0 := h 0 (by simp)
    have hs : ∀ i < cs.length, k < posAddr (j + 1 + i) 0 ∨ posAddr (j + 1 + i) 3 ≤ k := by
      intro i hi
      have := h (i + 1) (by simpa using hi)
      simpa only [Nat.add_assoc, Nat.add_comm 1] using this
    simp only [Memory.storePositions, ih _ _ hs, Memory.storePos]
    simp only [posAddr] at h0 ⊢
    rw [Memory.lookup_storeWord_of_outside _ _ (by omega), Memory.lookup_storeWord_of_outside _ _ (by omega),
      Memory.lookup_storeWord_of_outside _ _ (by omega)]

/-! ### Words -/

/-- The four bytes of a word, put together, are the word. -/
theorem append_wordBytes (w : Word) :
    ((w.extractLsb' 24 8 ++ w.extractLsb' 16 8 ++ w.extractLsb' 8 8 ++ w.extractLsb' 0 8 : BitVec 32)) = w := by
  apply BitVec.eq_of_getLsbD_eq
  intro i hi
  simp only [BitVec.getLsbD_append, BitVec.getLsbD_extractLsb']
  by_cases h0 : i < 8
  · simp [h0]
  · by_cases h1 : i < 8 + 8
    · have e : 8 + (i - 8) = i := by omega
      simp [h0, show i - 8 < 8 by omega, e]
    · by_cases h2 : i < 8 + 8 + 8
      · have e : 16 + (i - 8 - 8) = i := by omega
        simp [h0, show ¬ i - 8 < 8 by omega, show i - 8 - 8 < 8 by omega, e]
      · have e : 24 + (i - 8 - 8 - 8) = i := by omega
        simp [h0, show ¬ i - 8 < 8 by omega, show ¬ i - 8 - 8 < 8 by omega, show i - 8 - 8 - 8 < 8 by omega, e]

/-- A word read where it was stored is the word stored. -/
theorem State.wordAt_setMem_storeWord (s : State) (m : Memory) (a : Nat) (w : Word) :
    (s.setMem (Memory.storeWord m a w)).wordAt a = w := by
  have hb : ∀ i < 4, (s.setMem (Memory.storeWord m a w)).byteAt (a + i) = ((wordBytes w)[i]?).getD 0#8 := by
    intro i hi
    have h1 : a ≤ a + i ∧ a + i < a + (wordBytes w).length := by
      simp only [wordBytes, List.length_cons, List.length_nil]; omega
    have h2 : i < (wordBytes w).length := by simpa [wordBytes] using hi
    simp only [State.byteAt, State.setMem_mem, Memory.storeWord, Memory.lookup_storeBytes, if_pos h1,
      Nat.add_sub_cancel_left, List.getElem?_eq_getElem h2, Option.getD_some]
  have h0 := hb 0 (by omega)
  rw [Nat.add_zero] at h0
  simp only [State.wordAt, h0, hb 1 (by omega), hb 2 (by omega), hb 3 (by omega)]
  exact append_wordBytes w

/-- What an offset reads as depends only on the memory and the reset count. -/
theorem State.byteAt_congr {s t : State} {a : Nat} (hm : Memory.lookup s.mem a = Memory.lookup t.mem a)
    (he : s.epoch = t.epoch) : s.byteAt a = t.byteAt a := by
  simp only [State.byteAt, hm, he]

theorem State.reset_mem_wf : Memory.wf State.reset.mem := List.Pairwise.nil

end Sys2Proof.Machine
end

