-- ==== Sys2Proof/Laws/PerInstr.lean ====
section
/-! SUPPORT. Per-instruction laws: the word of each command is the one the opcode map gives it. -/

namespace Sys2Proof.Laws.EncodedWord

/-- The word of a command is a legal command word, it decodes to the command, and its OP is the whole word
(30_encoding.md R80, R81, R83). -/
def Statement (i : Sys2Proof.Instr) : Prop :=
  Sys2Proof.Instr.wellFormed i = true ∧ Sys2Proof.commandWord (Sys2Proof.encode i) = true ∧
    Sys2Proof.decode (Sys2Proof.encode i) = .ok i ∧
    Sys2Proof.opField (Sys2Proof.encode i) = (Sys2Proof.encode i).toNat

theorem pack32 : Statement .pack32 := ⟨rfl, by decide, rfl, rfl⟩
theorem unpack32 : Statement .unpack32 := ⟨rfl, by decide, rfl, rfl⟩
theorem pack16h : Statement .pack16h := ⟨rfl, by decide, rfl, rfl⟩
theorem unpack16h : Statement .unpack16h := ⟨rfl, by decide, rfl, rfl⟩
theorem wrbits : Statement .wrbits := ⟨rfl, by decide, rfl, rfl⟩
theorem rdbits : Statement .rdbits := ⟨rfl, by decide, rfl, rfl⟩
theorem packm : Statement .packm := ⟨rfl, by decide, rfl, rfl⟩
theorem unpackm : Statement .unpackm := ⟨rfl, by decide, rfl, rfl⟩

end Sys2Proof.Laws.EncodedWord
end

