-- ==== Sys2Proof/Laws/Step.lean ====
section
/-! SUPPORT. What a command's end, a command and a step can do, said once. -/

namespace Sys2Proof.Machine

/-! ### Completion -/

/-- Completion with success is `succeed`. -/
theorem State.complete_success (s : State) : s.complete .success = s.succeed := by
  simp [State.complete, State.succeed, Report.success, Report.isError]

/-- Completion with an error is `fail`. -/
theorem State.complete_error (s : State) {r : Report} (h : r.cause ≠ .none) :
    s.complete r = s.fail r.cause r.field r.value r.index := by
  simp [State.complete, State.fail, Report.isError, h]

/-- A command that staged `t` ends as `t` with a cleared report (60_exceptions.md R200). -/
@[simp] theorem State.finish_ok (s t : State) : s.finish (.ok t) = t.succeed := State.complete_success t

/-- A command that raised ends as it began, but for the report (60_exceptions.md R209). -/
theorem State.finish_error (s : State) (r : Report) : s.finish (.error r) = s.complete r := rfl

/-- Every command is executed to its completion: the one thing `exec` does, in the terms of what the command stages. -/
def State.effect (s : State) : Instr → Except Report State
  | .pack32 => pack32Effect s
  | .unpack32 => .ok (s.setOut (unpack32 s.packed.toNat))
  | .pack16h => pack16hEffect s
  | .unpack16h => .ok (s.setOut (unpackHalf (s.packed.extractLsb' 0 16).toNat s.half))
  | .wrbits => wrbitsEffect s
  | .rdbits => rdbitsEffect s
  | .packm => packmEffect s
  | .unpackm => unpackmEffect s

theorem exec_eq_finish (i : Instr) (s : State) : exec i s = .next (s.finish (s.effect i)) := by
  cases i <;> rfl

/-! ### The block's turn -/

theorem State.blockTurn_of_idle {s : State} (h : s.pending = none) : s.blockTurn = .next s := by
  simp only [State.blockTurn, h]

theorem State.blockTurn_of_command {s : State} {w : Word} {i : Instr} (h : s.pending = some w) (hd : decode w = .ok i) :
    s.blockTurn = exec i s := by
  simp only [State.blockTurn, h, State.runCommand, hd]

theorem State.blockTurn_of_illegal {s : State} {w : Word} {r : Reject} (h : s.pending = some w)
    (hd : decode w = .error r) : s.blockTurn = .next (s.complete (.illegalCmd w)) := by
  simp only [State.blockTurn, h, State.runCommand, hd]

/-- All the block's turn can do: nothing, a command, or the report of an illegal word. -/
theorem State.blockTurn_cases (s : State) :
    (s.pending = none ∧ s.blockTurn = .next s) ∨
      (∃ w i, s.pending = some w ∧ decode w = .ok i ∧ s.blockTurn = .next (s.finish (s.effect i))) ∨
      (∃ w r, s.pending = some w ∧ decode w = .error r ∧ s.blockTurn = .next (s.complete (.illegalCmd w))) := by
  rcases hp : s.pending with _ | w
  · exact .inl ⟨rfl, State.blockTurn_of_idle hp⟩
  · rcases hd : decode w with r | i
    · exact .inr (.inr ⟨w, r, rfl, hd, State.blockTurn_of_illegal hp hd⟩)
    · exact .inr (.inl ⟨w, i, rfl, hd, by rw [State.blockTurn_of_command hp hd, exec_eq_finish]⟩)

/-! ### The host's turn -/

/-- All an access that is carried out can do: a read of a place, or a write of one while the block is not busy. -/
theorem State.doAccess_next {s t : State} {a : Access} (h : s.doAccess a = .next t) :
    (∃ addr size p, a = .read addr size ∧ s.locate addr size = .next p ∧ t = s.readPlace p) ∨
      (∃ addr size v p, a = .write addr size v ∧ s.locate addr size = .next p ∧ s.busy = false ∧
        t = s.writePlace v p) := by
  cases a with
  | read addr size =>
    rcases hl : s.locate addr size with p | f | r
    · simp only [State.doAccess, hl, Host.Outcome.next.injEq] at h
      exact .inl ⟨addr, size, p, rfl, hl, h.symm⟩
    · simp [State.doAccess, hl] at h
    · simp [State.doAccess, hl] at h
  | write addr size v =>
    rcases hl : s.locate addr size with p | f | r
    · rcases hb : s.busy with _ | _
      · simp only [State.doAccess, hl, hb, Bool.false_eq_true, if_false, Host.Outcome.next.injEq] at h
        exact .inr ⟨addr, size, v, p, rfl, hl, rfl, h.symm⟩
      · simp [State.doAccess, hl, hb] at h
    · simp [State.doAccess, hl] at h
    · simp [State.doAccess, hl] at h

/-- All the host's turn can do: nothing, an access, or one poll of `wait`. -/
theorem State.hostTurn_next {s t : State} (h : s.hostTurn = .next t) :
    (s.hostOps = [] ∧ t = s) ∨
      (∃ a rest, s.hostOps = .access a :: rest ∧ (s.setHostOps rest).doAccess a = .next t) ∨
      (∃ rest, s.hostOps = .wait :: rest ∧ t = s.poll rest) := by
  rcases ho : s.hostOps with _ | ⟨a | _, rest⟩
  · simp only [State.hostTurn, ho, Host.Outcome.next.injEq] at h
    exact .inl ⟨rfl, h.symm⟩
  · simp only [State.hostTurn, ho] at h
    exact .inr (.inl ⟨a, rest, rfl, h⟩)
  · simp only [State.hostTurn, ho, Host.Outcome.next.injEq] at h
    exact .inr (.inr ⟨rest, rfl, h.symm⟩)

/-- A poll of `wait` is a read of STATUS, after which the program may have moved on. -/
theorem State.poll_cases (s : State) (rest : List HostOp) :
    ∃ ops, s.poll rest = (s.readPlace (.reg .status)).setHostOps ops := by
  simp only [State.poll]
  split
  · refine ⟨s.hostOps, ?_⟩
    simp [State.readPlace, State.setHostOps, State.note]
  · exact ⟨rest, rfl⟩

/-! ### A step -/

/-- All a step that goes on can do: a reset, the block's turn, or the host's. -/
theorem step_next {s t : State} (h : step s = .next t) :
    (s.turn = .reset ∧ t = s.popTurn.blockReset) ∨ (s.turn = .block ∧ s.popTurn.blockTurn = .next t) ∨
      (s.turn = .host ∧ s.popTurn.hostTurn = .next t) := by
  simp only [step] at h
  rcases ht : s.turn with _ | _ | _ <;> simp only [ht, State.take] at h
  · exact .inr (.inr ⟨rfl, h⟩)
  · exact .inr (.inl ⟨rfl, h⟩)
  · exact .inl ⟨rfl, by simpa using h.symm⟩

/-- In the host's turn a step is the host's, the turn taken. -/
theorem step_of_host {s : State} (h : s.turn = .host) : step s = s.popTurn.hostTurn := by
  simp only [step, h, State.take]

/-- In the block's turn a step is the block's, the turn taken. -/
theorem step_of_block {s : State} (h : s.turn = .block) : step s = s.popTurn.blockTurn := by
  simp only [step, h, State.take]

/-- In a reset turn a step is the reset event. -/
theorem step_of_reset {s : State} (h : s.turn = .reset) : step s = .next s.popTurn.blockReset := by
  simp only [step, h, State.take]

/-- A run of one more step is a step and then the run from there. -/
theorem run_succ_of_next {s t : State} (n : Nat) (h : step s = .next t) :
    Host.Core.run core (n + 1) s = Host.Core.run core n t := by
  simp only [Host.Core.run, show core.step s = .next t from h]

end Sys2Proof.Machine
end

