-- ==== Sys2Proof/Laws/Window.lean ====
section
/-! SUPPORT. What an admitted host access reaches, and all that a read and a write of a place can change. -/

namespace Sys2Proof.Machine

/-! ### Registers -/

/-- The register at an offset has that offset (10_state.md R21). -/
theorem Reg.ofOffset_eq_some {off : Nat} {r : Reg} (h : Reg.ofOffset off = some r) : off = r.offset := by
  unfold Reg.ofOffset at h
  split at h <;> first | (cases h; rfl) | cases h

/-- Every register is found at its offset. -/
theorem Reg.ofOffset_offset (r : Reg) : Reg.ofOffset r.offset = some r := by cases r <;> rfl

/-! ### What an admitted access reaches -/

/-- All an admitted access can reach: a register at its offset, a byte of BUF, a word of POS (20_memory.md R60 to R63). -/
theorem State.placeAt_next {s : State} {off size : Nat} {p : Place} (h : s.placeAt off size = .next p) :
    (∃ r, p = .reg r ∧ off = r.offset ∧ size = 4) ∨
      (∃ i, p = .buf i ∧ i < s.bufCap.toNat ∧ off = bufAddr i ∧ size = 1) ∨
      (∃ j k, p = .pos j k ∧ j < s.posCap.toNat ∧ k < 4 ∧ off = posAddr j k ∧ size = 4) := by
  have hb : s.bufEnd = 0x1000 + s.bufCap.toNat := rfl
  have hp : s.posEnd = 0x10000 + 16 * s.posCap.toNat := rfl
  simp only [State.placeAt, alignedWord, Bool.and_eq_true, decide_eq_true_eq] at h
  split at h
  · split at h
    · cases h
    · split at h
      · rename_i hw
        split at h
        · rename_i r hr
          cases h
          exact .inl ⟨r, rfl, Reg.ofOffset_eq_some hr, hw.1⟩
        · cases h
      · cases h
  · split at h
    · split at h
      · cases h
      · split at h
        · cases h
          refine .inr (.inl ⟨off - 0x1000, rfl, by omega, ?_, ‹_›⟩)
          simp only [bufAddr]; omega
        · cases h
    · split at h
      · split at h
        · cases h
        · split at h
          · rename_i hw
            cases h
            refine .inr (.inr ⟨(off - 0x10000) / 16, (off - 0x10000) / 4 % 4, rfl, by omega, by omega, ?_, hw.1⟩)
            simp only [posAddr]; omega
          · cases h
      · cases h

theorem State.locate_next {s : State} {addr size : Nat} {p : Place} (h : s.locate addr size = .next p) :
    (s.blockBase ≤ addr ∧ addr < s.blockBase + 2 ^ 32) ∧ s.placeAt (addr - s.blockBase) size = .next p := by
  simp only [State.locate] at h
  split at h
  · exact ⟨‹_›, h⟩
  · cases h

/-! ### Reads -/

/-- All a read of a place can change: the notes of the host and the draw count (20_memory.md R61, R70). -/
theorem State.readPlace_eq (s : State) (p : Place) :
    ∃ v n, s.readPlace p = { s with noted := v :: s.noted, draws := n } := by
  simp only [State.readPlace]
  split
  · exact ⟨s.drawAt p, s.draws + 1, rfl⟩
  · exact ⟨s.valueAt p, s.draws, rfl⟩

/-! ### Writes -/

/-- A write of a register changes no memory, no report, no output register, no parameter and nothing of the host. -/
theorem State.writeReg_frame (s : State) (r : Reg) (v : Word) :
    ((s.writeReg r v).err = s.err ∧ (s.writeReg r v).cause = s.cause ∧ (s.writeReg r v).field = s.field ∧
      (s.writeReg r v).faultSeen = s.faultSeen ∧ (s.writeReg r v).errValue = s.errValue ∧
      (s.writeReg r v).errIndex = s.errIndex) ∧
    ((s.writeReg r v).xOut = s.xOut ∧ (s.writeReg r v).yOut = s.yOut ∧ (s.writeReg r v).zOut = s.zOut) ∧
    ((s.writeReg r v).mem = s.mem ∧ (s.writeReg r v).epoch = s.epoch ∧ (s.writeReg r v).bufCap = s.bufCap ∧
      (s.writeReg r v).posCap = s.posCap ∧ (s.writeReg r v).blockBase = s.blockBase) ∧
    ((s.writeReg r v).draws = s.draws ∧ (s.writeReg r v).hostOps = s.hostOps ∧
      (s.writeReg r v).schedule = s.schedule ∧ (s.writeReg r v).noted = s.noted) := by
  cases r <;> exact ⟨⟨rfl, rfl, rfl, rfl, rfl, rfl⟩, ⟨rfl, rfl, rfl⟩, ⟨rfl, rfl, rfl, rfl, rfl⟩, rfl, rfl, rfl, rfl⟩

/-- A write of a register other than CMD leaves PENDING alone. -/
theorem State.writeReg_pending {s : State} {r : Reg} (h : r ≠ .cmd) (v : Word) : (s.writeReg r v).pending = s.pending := by
  cases r <;> first | rfl | exact absurd rfl h

/-- BUF_LEN stays a legal length under any register write (10_state.md R38). -/
theorem State.writeReg_bufLen_le {s : State} (h : s.bufLen.toNat ≤ s.bufCap.toNat) (r : Reg) (v : Word) :
    (s.writeReg r v).bufLen.toNat ≤ (s.writeReg r v).bufCap.toNat := by
  cases r <;> try exact h
  simp only [State.writeReg, State.setBufLen, State.clampLen]
  split
  · assumption
  · exact Nat.le_refl _

/-- All a write of a place can do: a register write, a byte of BUF stored, a word of POS stored, or nothing (POS word 3). -/
theorem State.writePlace_cases (s : State) (v : Word) (p : Place) :
    (∃ r, p = .reg r ∧ s.writePlace v p = s.writeReg r v) ∨
      (∃ i, p = .buf i ∧ s.writePlace v p = s.setMem (Memory.store s.mem (bufAddr i) (v.extractLsb' 0 8))) ∨
      (∃ j k, p = .pos j k ∧ k ≠ 3 ∧ s.writePlace v p = s.setMem (Memory.storeWord s.mem (posAddr j k) v)) ∨
      ∃ j, p = .pos j 3 ∧ s.writePlace v p = s := by
  rcases p with r | i | ⟨j, k⟩
  · exact .inl ⟨r, rfl, rfl⟩
  · exact .inr (.inl ⟨i, rfl, rfl⟩)
  · by_cases h : k = 3
    · subst h
      exact .inr (.inr (.inr ⟨j, rfl, rfl⟩))
    · exact .inr (.inr (.inl ⟨j, k, rfl, h, by simp only [State.writePlace, if_neg h]⟩))

end Sys2Proof.Machine
end

