-- ==== Sys2Proof/Tests/Slice0.lean ====
section
/-! SUPPORT. The model's own tests: expected results are the vectors of 95_test_vectors.md (named V… and L… below) and the rules;
then, for each statement with hypotheses, a witness that meets them, per clause where there are several. -/

namespace Sys2Proof.Tests

open Sys2Proof Sys2Proof.Machine

/-! ### Helpers -/

/-- The state an outcome goes on with. -/
def nextOf : Host.Outcome State Fault Refusal → Option State
  | .next s => some s
  | .fault _ => none
  | .refused _ => none

/-- Why an outcome is refused. -/
def refusalOf : Host.Outcome State Fault Refusal → Option Refusal
  | .next _ => none
  | .fault _ => none
  | .refused r => some r

/-- The vectors' block: reset, BUF_CAP = 64, POS_CAP = 16. -/
def bench : State := State.resetWith 64#32 16#32 0

/-- The vectors' block with PACK inputs. -/
def inputs (x y z : Int) : State := { bench with xIn := u32 x, yIn := u32 y, zIn := u32 z }

/-- The vectors' block with bytes in BUF, BUF_LEN their number, and the operands of the bit commands. -/
def withBuf (bs : List Byte) (o v n : Nat) : State :=
  { bench with
    mem := Memory.storeBytes [] (bufAddr 0) bs
    bufLen := BitVec.ofNat 32 bs.length
    bitOffset := BitVec.ofNat 32 o
    bitval := BitVec.ofNat 32 v
    numBits := BitVec.ofNat 32 n }

/-- The vectors' block with positions in POS, COUNT their number. -/
def withPos (ps : List Coord) : State :=
  { bench with
    mem := ps.zipIdx.foldl (fun m pj =>
      Memory.storeWord (Memory.storeWord (Memory.storeWord m (posAddr pj.2 0) (u32 pj.1.x)) (posAddr pj.2 1) (u32 pj.1.y))
        (posAddr pj.2 2) (u32 pj.1.z)) []
    count := BitVec.ofNat 32 ps.length }

/-- The vectors' block with bytes in BUF, BUF_LEN their number, and COUNT. -/
def withStream (bs : List Byte) (count : Nat) : State :=
  { withBuf bs 0 0 0 with count := BitVec.ofNat 32 count }

/-- The block idle with one host access next. -/
def asking (s : State) (a : Access) : State := { s with hostOps := [.access a], schedule := [.host] }

/-- A block with a pending word and the block next to move. -/
def holding (s : State) (w : Word) : State := { s with pending := some w, schedule := [.block] }

/-! ### Well-formedness: each check refuses an ill-formed term -/

theorem test_commandWord_refuses_mbz : commandWord 0x80000001#32 = false := by decide
theorem test_commandWord_refuses_op_zero : commandWord 0x00000000#32 = false := by decide
theorem test_commandWord_refuses_op_nine : commandWord 0x00000009#32 = false := by decide
theorem test_commandWord_accepts_op_eight : commandWord 0x00000008#32 = true := by decide
theorem test_paramsOk_refuses_bufCap_zero : paramsOk 0#32 16#32 = false := by decide
theorem test_paramsOk_refuses_bufCap_large : paramsOk 0xF001#32 16#32 = false := by decide
theorem test_paramsOk_refuses_posCap_zero : paramsOk 64#32 0#32 = false := by decide
theorem test_paramsOk_refuses_posCap_large : paramsOk 64#32 0x0FFFF001#32 = false := by decide
theorem test_paramsOk_accepts_largest : paramsOk 0xF000#32 0x0FFFF000#32 = true := by decide

/-! ### Decoding: words written out from 30_encoding.md R81, and V5.1 to V5.6 -/

theorem test_decode_pack32 : decode 0b00000000000000000000000000000001#32 = .ok .pack32 := rfl
theorem test_decode_unpack32 : decode 0b00000000000000000000000000000010#32 = .ok .unpack32 := rfl
theorem test_decode_pack16h : decode 0b00000000000000000000000000000011#32 = .ok .pack16h := rfl
theorem test_decode_unpack16h : decode 0b00000000000000000000000000000100#32 = .ok .unpack16h := rfl
theorem test_decode_wrbits : decode 0b00000000000000000000000000000101#32 = .ok .wrbits := rfl
theorem test_decode_rdbits : decode 0b00000000000000000000000000000110#32 = .ok .rdbits := rfl
theorem test_decode_packm : decode 0b00000000000000000000000000000111#32 = .ok .packm := rfl
theorem test_decode_unpackm : decode 0b00000000000000000000000000001000#32 = .ok .unpackm := rfl
theorem test_decode_rejects_zero : decode 0x00000000#32 = .error (.opcode 0) := rfl
theorem test_decode_rejects_mbz : decode 0x00000011#32 = .error .mbzSet := rfl
theorem test_decodeTableWord_unpackm : decodeTableWord 32 8 = some .unpackm := by decide
theorem test_decodeTableWord_rejects_nine : decodeTableWord 32 9 = none := by decide

/-! ### Vectors, one step each -/

/-- V1.1. -/
theorem test_pack32_V1_1 :
    (nextOf (exec .pack32 (inputs 5 70 9))).map (fun t => (t.packed, t.statusWord)) = some (0x00008695#32, 0#32) := by
  decide

/-- V1.15: z is checked before y. -/
theorem test_pack32_V1_15 :
    (nextOf (exec .pack32 (inputs 0 400 16))).map (fun t => (t.packed, t.statusWord, t.errValue)) =
      some (0#32, 0xE6#32, 0x10#32) := by
  decide

/-- V1.17. -/
theorem test_unpack32_V1_17 :
    (nextOf (exec .unpack32 { bench with packed := 0xFFFFFFFF#32 })).map (fun t => (t.xOut, t.yOut, t.zOut)) =
      some (15#32, 447#32, 15#32) := by
  decide

/-- V1.20. -/
theorem test_unpack32_V1_20 :
    (nextOf (exec .unpack32 { bench with packed := 0x00020000#32 })).map (fun t => (t.xOut, t.yOut, t.zOut)) =
      some (0#32, 0xFFFFFFC0#32, 0#32) := by
  decide

/-- V2.5. -/
theorem test_pack16h_V2_5 :
    (nextOf (exec .pack16h (inputs 15 319 15))).map (fun t => (t.half, t.packed)) = some (true, 0x0000BFFF#32) := by
  decide

/-- V2.3. -/
theorem test_pack16h_V2_3 :
    (nextOf (exec .pack16h (inputs 0 127 0))).map (fun t => (t.half, t.packed)) = some (false, 0x0000BF00#32) := by
  decide

/-- V2.15. -/
theorem test_unpack16h_V2_15 :
    (nextOf (exec .unpack16h { bench with packed := 0x12345678#32, half := true })).map
      (fun t => (t.xOut, t.yOut, t.zOut)) = some (8#32, 214#32, 7#32) := by
  decide

/-- V2.13. -/
theorem test_unpack16h_V2_13 :
    (nextOf (exec .unpack16h { bench with packed := 0x0000C000#32 })).map (fun t => (t.xOut, t.yOut, t.zOut)) =
      some (0#32, 128#32, 0#32) := by
  decide

/-- V3.1. -/
theorem test_wrbits_V3_1 :
    (nextOf (exec .wrbits (withBuf [0xFF, 0xFF, 0xFF, 0xFF] 5 0 10))).map (fun t => t.bufBytes 4) =
      some [0x1F, 0x80, 0xFF, 0xFF] := by
  decide

/-- V3.8. -/
theorem test_wrbits_V3_8 :
    (nextOf (exec .wrbits (withBuf [0, 0, 0, 0] 28 0xFF 5))).map (fun t => (t.bufBytes 4, t.statusWord, t.errValue)) =
      some ([0, 0, 0, 0], 0x8A#32, 33#32) := by
  decide

/-- V3.16. -/
theorem test_rdbits_V3_16 :
    (nextOf (exec .rdbits (withBuf [0x78, 0x56, 0x34, 0x12] 12 0 12))).map (fun t => t.bitval) =
      some 0x345#32 := by
  decide

/-- V3.21. -/
theorem test_rdbits_V3_21 :
    (nextOf (exec .rdbits (withBuf [0xFF, 0xFF, 0xFF, 0xFF] 0 7 40))).map
      (fun t => (t.bitval, t.statusWord, t.errValue)) = some (7#32, 0x92#32, 40#32) := by
  decide

/-- V4.3. -/
theorem test_packm_V4_3 :
    (nextOf (exec .packm (withPos [⟨5, 70, 9⟩, ⟨15, 319, 15⟩, ⟨0, -64, 0⟩]))).map (fun t => (t.bufLen, t.bufBytes 7)) =
      some (7#32, [0x95, 0x86, 0xFE, 0xFF, 0x02, 0x00, 0x00]) := by
  decide

/-- V4.10: the first bad field of the first bad position, and its index. -/
theorem test_packm_V4_10 :
    (nextOf (exec .packm (withPos [⟨15, 319, 15⟩, ⟨0, 0, 0⟩, ⟨3, -70, 20⟩]))).map
      (fun t => (t.bufLen, t.statusWord, t.errValue, t.errIndex)) = some (0#32, 0xE6#32, 20#32, 2#32) := by
  decide

/-- V4.16. -/
theorem test_unpackm_V4_16 :
    (nextOf (exec .unpackm (withStream [0xFF, 0xFF, 0xFF, 0xFF, 0xFF] 2))).map
      (fun t => (t.posCoord 0, t.posCoord 1)) = some (⟨15, 447, 15⟩, ⟨15, 447, 15⟩) := by
  decide

/-- V4.19. -/
theorem test_unpackm_V4_19 :
    (nextOf (exec .unpackm (withStream [0x95, 0x86, 0xFE, 0xFF, 0x02, 0x00, 0x00] 4))).map
      (fun t => (t.statusWord, t.errValue)) = some (0x8A#32, 68#32) := by
  decide

/-- V5.4, by a step. -/
theorem test_step_V5_4 :
    (nextOf (step (State.reset.withFetchWord 32 0x10))).map (fun t => (t.statusWord, t.errValue)) =
      some (0x8E#32, 0x10#32) := by
  decide

/-- V5.11, by a step. -/
theorem test_step_V5_11 : (nextOf (step (State.reset.withFetchWord 32 1))).map (fun t => t.packed) = some 0x4000#32 := by
  decide

/-- V5.7. -/
theorem test_bufLen_V5_7 :
    (nextOf (step (asking bench (.write 0x038 4 100#32)))).map (fun t => t.bufLen) = some 64#32 := by
  decide

/-- V5.8. -/
theorem test_half_V5_8 :
    (nextOf (step (asking bench (.write 0x018 4 0xFFFFFFFF#32)))).map (fun t => t.halfWord) = some 1#32 := by
  decide

/-- V5.9. -/
theorem test_status_V5_9 :
    (nextOf (step (asking bench (.write 0x004 4 0xFFFFFFFF#32)))).map (fun t => t.statusWord) = some 0#32 := by
  decide

/-- V5.10. -/
theorem test_cmd_V5_10 :
    (nextOf (step (asking bench (.read 0x000 4)))).map (fun t => t.noted) = some [.word 0#32] := by
  decide

/-- P2 step 3: a POS word written by the host is read back, and its reserved fourth word reads 0 (20_memory.md R63). -/
theorem test_pos_word_written :
    (nextOf (step (asking bench (.write 0x10024 4 0xFFFFFFC0#32)))).map (fun t => t.posWord 2 1) =
      some 0xFFFFFFC0#32 := by
  decide

/-- P1 step 4 in the host syntax: the operations of `pack32 5, 70, 9` (30_encoding.md R86; offsets and words of P1). -/
theorem test_asm_pack32 :
    asmPack32 0 5 70 9 =
      [.access (.write 0x008 4 5#32), .access (.write 0x00C 4 0x46#32), .access (.write 0x010 4 9#32),
        .access (.write 0x000 4 1#32), .wait] := by
  decide

/-- An access of two bytes to BUF is refused (20_memory.md R64). -/
theorem test_buf_halfword_refused : refusalOf (step (asking bench (.read 0x1000 2))) = some .notOneByte := by decide

/-- A reserved offset is refused (20_memory.md R64). -/
theorem test_reserved_refused : refusalOf (step (asking bench (.read 0x04C 4))) = some .reservedOffset := by decide

/-- A misaligned register access is refused (20_memory.md R64). -/
theorem test_misaligned_refused : refusalOf (step (asking bench (.write 0x00A 4 0#32))) = some .notAlignedWord := by decide

/-- An access that crosses from the registers into the reserved range is refused (20_memory.md R64). -/
theorem test_crossing_refused : refusalOf (step (asking bench (.read 0x048 8))) = some .crossesRange := by decide

/-- A write while BUSY is refused (70_reset_and_hazards.md R245). -/
theorem test_busy_write_refused :
    refusalOf (step (asking (holding bench 1#32) (.write 0x008 4 0#32))) = some .writeWhileBusy := by decide

/-! ### Witnesses: the hypotheses of the statements can be met -/

theorem test_witness_StepRunsDecodedCommand :
    (holding bench 7#32).turn = .block ∧ (holding bench 7#32).pending = some 7#32 ∧ decode 7#32 = .ok .packm :=
  ⟨by decide, by decide, rfl⟩

theorem test_witness_IllegalWord_mbz :
    (holding bench 0x10#32).turn = .block ∧ (holding bench 0x10#32).pending = some 0x10#32 ∧
      (0x10#32 : Word).extractLsb' 4 28 ≠ 0#28 := by
  decide

theorem test_witness_IllegalWord_zero :
    (holding bench 0#32).turn = .block ∧ (holding bench 0#32).pending = some 0#32 ∧
      ((0#32 : Word).extractLsb' 0 4).toNat = 0 := by
  decide

theorem test_witness_IllegalWord_nine :
    (holding bench 9#32).turn = .block ∧ (holding bench 9#32).pending = some 9#32 ∧
      9 ≤ ((9#32 : Word).extractLsb' 0 4).toNat := by
  decide

theorem test_witness_IdleTurns_block :
    ({ bench with schedule := [.block] }).turn = .block ∧ ({ bench with schedule := [.block] }).pending = none := by
  decide

theorem test_witness_IdleTurns_host : bench.turn = .host ∧ bench.hostOps = [] := by decide

theorem test_witness_valid_largest : (inputs 15 319 15).inputCoord.valid := by decide

theorem test_witness_valid_smallest : (inputs 0 (-64) 0).inputCoord.valid := by decide

theorem test_witness_firstBad_x : (inputs 16 400 16).inputCoord.firstBad = some (.x, 16) := by decide

theorem test_witness_firstBad_z : (inputs 15 400 (-1)).inputCoord.firstBad = some (.z, -1) := by decide

theorem test_witness_firstBad_y : (inputs 15 320 15).inputCoord.firstBad = some (.y, 320) := by decide

theorem test_witness_Unpack32IgnoresHighBits :
    (0xFFFE0005#32 : Word).extractLsb' 0 17 = ({ bench with packed := 5#32 }).packed.extractLsb' 0 17 ∧
      (nextOf (exec .unpack32 { bench with packed := 5#32 })).isSome = true := by
  decide

theorem test_witness_SingleIntegerCodecLaws_valid : (⟨15, 319, 15⟩ : Coord).valid := by decide

theorem test_witness_SingleIntegerCodecLaws_largest : (383 * 256 + 255) / 256 % 512 ≤ 383 ∧ 383 * 256 + 255 < 2 ^ 32 := by
  decide

theorem test_witness_SingleIntegerCodecLaws_beyond : 384 ≤ (384 * 256) / 256 % 512 ∧ 384 * 256 < 2 ^ 32 := by decide

theorem test_witness_SingleIntegerCodecLaws_packed : pack32 ⟨15, 319, 15⟩ 0 = .ok 0x17FFF := rfl

theorem test_witness_HalfSplitCodecLaws_127 : packHalf ⟨0, 127, 0⟩ = .ok (false, 0xBF00) := rfl

theorem test_witness_HalfSplitCodecLaws_128 : packHalf ⟨0, 128, 0⟩ = .ok (true, 0) := rfl

theorem test_witness_HalfSplitCodecLaws_valid :
    (⟨0, 127, 0⟩ : Coord).valid ∧ (⟨0, 127, 0⟩ : Coord).y < 128 ∧ (⟨15, 319, 15⟩ : Coord).valid ∧ 128 ≤ (⟨15, 319, 15⟩ : Coord).y := by
  decide

theorem test_witness_WriteBits_bounds : 0x3FF < 2 ^ 32 ∧ 10 ≤ 32 ∧ 22 + 10 ≤ 8 * ([1, 2, 3, 4] : List Byte).length := by
  decide

theorem test_witness_WriteBits_empty : 0 < 2 ^ 32 ∧ 0 ≤ 32 ∧ 32 + 0 ≤ 8 * ([1, 2, 3, 4] : List Byte).length := by decide

theorem test_witness_BitFieldLaws_disjoint :
    (5 ≤ 32 ∧ 27 ≤ 32 ∧ 0 + 5 ≤ 8 * ([1, 2, 3, 4] : List Byte).length ∧ 5 + 27 ≤ 8 * ([1, 2, 3, 4] : List Byte).length) ∧
      (0 + 5 ≤ 5 ∨ 5 + 27 ≤ 0) := by
  decide

theorem test_witness_BitFieldLaws_split : 5 + 27 ≤ 32 ∧ 0 + (5 + 27) ≤ 8 * ([1, 2, 3, 4] : List Byte).length := by decide

theorem test_witness_BitFieldLaws_touched :
    1 ≤ 32 ∧ 32 ≤ 32 ∧ 7 + 32 ≤ 8 * ([1, 2, 3, 4, 5, 6] : List Byte).length ∧ (7 + 32 - 1) / 8 < 5 := by
  decide

theorem test_witness_bits_tooWide : 32 < (withBuf [0, 0] 0 0 33).numBits.toNat := by decide

theorem test_witness_bits_outOfBounds :
    (withBuf [0, 0] 0 0 17).numBits.toNat ≤ 32 ∧
      8 * (withBuf [0, 0] 0 0 17).bufLen.toNat <
        (withBuf [0, 0] 0 0 17).bitOffset.toNat + (withBuf [0, 0] 0 0 17).numBits.toNat := by
  decide

theorem test_witness_bits_inBounds :
    (withBuf [0, 0] 0 0 16).numBits.toNat ≤ 32 ∧
      (withBuf [0, 0] 0 0 16).bitOffset.toNat + (withBuf [0, 0] 0 0 16).numBits.toNat ≤
        8 * (withBuf [0, 0] 0 0 16).bufLen.toNat := by
  decide

theorem test_witness_BitstreamSizeLaw : ∀ c ∈ ([⟨15, 319, 15⟩, ⟨0, -64, 0⟩] : List Coord), c.valid := by decide

theorem test_witness_packm_posCap : ({ bench with count := 17#32 }).posCap.toNat < ({ bench with count := 17#32 }).count.toNat := by
  decide

theorem test_witness_packm_bufCap :
    ({ bench with count := 2#32, bufCap := 4#32 }).count.toNat ≤ ({ bench with count := 2#32, bufCap := 4#32 }).posCap.toNat ∧
      ({ bench with count := 2#32, bufCap := 4#32 }).bufCap.toNat <
        (17 * ({ bench with count := 2#32, bufCap := 4#32 }).count.toNat + 7) / 8 := by
  decide

/-- One position fills a block of POS_CAP = 1 and BUF_CAP = 3 exactly. -/
def packmFull : State := { withPos [⟨15, 319, 15⟩] with posCap := 1#32, bufCap := 3#32 }

theorem test_witness_packm_valid :
    packmFull.count.toNat ≤ packmFull.posCap.toNat ∧ (17 * packmFull.count.toNat + 7) / 8 ≤ packmFull.bufCap.toNat ∧
      ∀ i, i < packmFull.count.toNat → (packmFull.posCoord i).valid := by
  decide

theorem test_witness_packm_range :
    let s := withPos [⟨0, 0, 0⟩, ⟨15, 320, 15⟩]
    s.count.toNat ≤ s.posCap.toNat ∧ (17 * s.count.toNat + 7) / 8 ≤ s.bufCap.toNat ∧ 1 < s.count.toNat ∧
      (∀ j, j < 1 → (s.posCoord j).valid) ∧ (s.posCoord 1).firstBad = some (.y, 320) := by
  decide

theorem test_witness_unpackm_bounds :
    let s := withStream [0, 0, 0, 0] 2
    s.count.toNat ≤ s.posCap.toNat ∧ 8 * s.bufLen.toNat < 17 * s.count.toNat := by
  decide

theorem test_witness_unpackm_inBounds :
    let s := withStream [0x95, 0x86, 0x00] 1
    s.count.toNat ≤ s.posCap.toNat ∧ 17 * s.count.toNat ≤ 8 * s.bufLen.toNat ∧ 0 < s.count.toNat ∧ 0x8695 < 2 ^ 17 ∧
      ∀ k, k < 17 → Nat.testBit 0x8695 k = s.bufBit (17 * 0 + k) := by
  decide

/-- A PACKM that succeeds: the hypotheses of BulkRoundTrip, WrongCountAfterPackm (counts 1 and 3) and EntryReadsAlone. -/
theorem test_witness_packm_succeeds :
    ∃ t, exec .packm (withPos [⟨5, 70, 9⟩, ⟨15, 319, 15⟩]) = .next t ∧ t.err = false ∧
      (withPos [⟨5, 70, 9⟩, ⟨15, 319, 15⟩]).count.toNat < (3#32 : Word).toNat ∧
      (3#32 : Word).toNat ≤ (withPos [⟨5, 70, 9⟩, ⟨15, 319, 15⟩]).posCap.toNat ∧
      (1#32 : Word).toNat < (withPos [⟨5, 70, 9⟩, ⟨15, 319, 15⟩]).count.toNat ∧
      1 < (withPos [⟨5, 70, 9⟩, ⟨15, 319, 15⟩]).count.toNat ∧ (17#32 : Word).toNat = 17 * 1 :=
  ⟨_, rfl, by decide, by decide, by decide, by decide, by decide, by decide⟩

/-- The padding of the second memory is not zero: the first 17 bits agree. -/
theorem test_witness_UnpackmReadsOnlyItsEntries :
    (∃ t, exec .unpackm (withStream [0x95, 0x86, 0x00] 1) = .next t ∧ t.err = false) ∧
      ∀ q, q < 17 * (withStream [0x95, 0x86, 0x00] 1).count.toNat →
        State.bufBit { withStream [0x95, 0x86, 0x00] 1 with mem := (withStream [0x95, 0x86, 0xFE] 1).mem } q =
          (withStream [0x95, 0x86, 0x00] 1).bufBit q :=
  ⟨⟨_, rfl, by decide⟩, by decide⟩

/-- Commands go on: the hypotheses of CommandRegisterFrame and ReportsDoNotAccumulate. -/
theorem test_witness_exec_next : ∃ t, exec .rdbits (withBuf [0x78] 0 0 8) = .next t := ⟨_, rfl⟩

/-- A byte that a WRBITS of bits 12 to 15 does not store to, beside the one that it does. -/
theorem test_witness_CommandMemoryFrame :
    (∃ t, exec .wrbits (withBuf [0, 0, 0] 12 0xF 4) = .next t) ∧ ¬ (withBuf [0, 0, 0] 12 0xF 4).storesAt 0x1002 .wrbits ∧
      (withBuf [0, 0, 0] 12 0xF 4).storesAt 0x1001 .wrbits :=
  ⟨⟨_, rfl⟩, by simp only [State.storesAt]; decide, by simp only [State.storesAt]; decide⟩

theorem test_witness_FaultSeen_host : ∃ t, step bench = .next t ∧ bench.turn = .host := ⟨_, rfl, by decide⟩

theorem test_witness_FaultSeen_block :
    ∃ t, step (holding bench 9#32) = .next t ∧ (holding bench 9#32).turn = .block ∧ (holding bench 9#32).pending ≠ none :=
  ⟨_, rfl, by decide, by decide⟩

theorem test_witness_FaultSeen_idle :
    ∃ t, step { bench with schedule := [.block] } = .next t ∧ ({ bench with schedule := [.block] }).turn = .block ∧
      ({ bench with schedule := [.block] }).pending = none :=
  ⟨_, rfl, by decide, by decide⟩

theorem test_witness_reset_turn :
    ∃ t, step { bench with schedule := [.reset] } = .next t ∧ ({ bench with schedule := [.reset] }).turn = .reset :=
  ⟨_, rfl, by decide⟩

/-- WritableRegistersStore, at each of its offsets. -/
theorem test_witness_WritableRegisters :
    ∀ off ∈ [0x008, 0x00C, 0x010, 0x014, 0x018, 0x028, 0x02C, 0x030, 0x034, 0x038],
      (asking bench (.write off 4 100#32)).turn = .host ∧ (asking bench (.write off 4 100#32)).busy = false ∧
        (asking bench (.write off 4 100#32)).hostOps = .access (.write (bench.blockBase + off) 4 100#32) :: [] := by
  decide

/-- StatusWordLayout: a state of each cause and of each field, with the STATUS that 95_test_vectors.md gives it (its table of STATUS
values). -/
theorem test_witness_StatusWordLayout :
    (bench.cause = .none ∧ bench.field = .none ∧ bench.statusWord = 0x00#32) ∧
      ((bench.fail .range .x 0#32 0#32).statusWord = 0xA6#32 ∧ (bench.fail .range .y 0#32 0#32).statusWord = 0xC6#32 ∧
        (bench.fail .range .z 0#32 0#32).statusWord = 0xE6#32) ∧
      (bench.fail .bounds .none 0#32 0#32).statusWord = 0x8A#32 ∧
      (bench.fail .illegalCmd .none 0#32 0#32).statusWord = 0x8E#32 ∧
      (bench.fail .illegalArg .none 0#32 0#32).statusWord = 0x92#32 ∧
      (bench.fail .capacity .none 0#32 0#32).statusWord = 0x96#32 := by
  decide

theorem test_witness_CmdLatches_write :
    (asking bench (.write 0 4 1#32)).turn = .host ∧ (asking bench (.write 0 4 1#32)).busy = false ∧
      (asking bench (.write 0 4 1#32)).hostOps = .access (.write bench.blockBase 4 1#32) :: [] := by
  decide

theorem test_witness_CmdLatches_read :
    (asking bench (.read 0 4)).turn = .host ∧ (asking bench (.read 0 4)).busy = false ∧
      (asking bench (.read 0 4)).hostOps = .access (.read bench.blockBase 4) :: [] := by
  decide

theorem test_witness_CmdLatches_busy :
    (asking (holding bench 1#32) (.write 0 4 1#32)).turn = .host ∧
      (asking (holding bench 1#32) (.write 0 4 1#32)).busy = true ∧
      (asking (holding bench 1#32) (.write 0 4 1#32)).hostOps = .access (.write bench.blockBase 4 1#32) :: [] := by
  decide

theorem test_witness_ReadOnly_write :
    ∀ off ∈ [0x004, 0x01C, 0x020, 0x024, 0x03C, 0x040, 0x044, 0x048],
      (asking bench (.write off 4 1#32)).turn = .host ∧ (asking bench (.write off 4 1#32)).busy = false ∧
        (asking bench (.write off 4 1#32)).hostOps = .access (.write (bench.blockBase + off) 4 1#32) :: [] := by
  decide

theorem test_witness_ReadOnly_bufCap :
    (asking bench (.read 0x044 4)).turn = .host ∧ (asking bench (.read 0x044 4)).busy = false ∧
      (asking bench (.read 0x044 4)).hostOps = .access (.read (bench.blockBase + 0x044) 4) :: [] := by
  decide

theorem test_witness_ReadOnly_posCap :
    (asking bench (.read 0x048 4)).turn = .host ∧ (asking bench (.read 0x048 4)).busy = false ∧
      (asking bench (.read 0x048 4)).hostOps = .access (.read (bench.blockBase + 0x048) 4) :: [] := by
  decide

/-- RegisterReadsAnswer, at each of its offsets. -/
theorem test_witness_RegisterReads :
    ∀ off ∈ [0x004, 0x008, 0x00C, 0x010, 0x014, 0x018, 0x01C, 0x020, 0x024, 0x028, 0x02C, 0x030, 0x034, 0x038, 0x03C, 0x040],
      (asking bench (.read off 4)).turn = .host ∧ (asking bench (.read off 4)).busy = false ∧
        (asking bench (.read off 4)).hostOps = .access (.read (bench.blockBase + off) 4) :: [] := by
  decide

theorem test_witness_BufBytes_read :
    (asking bench (.read 0x103F 1)).turn = .host ∧ (asking bench (.read 0x103F 1)).busy = false ∧
      paramsOk bench.bufCap bench.posCap = true ∧ 63 < bench.bufCap.toNat ∧
      (asking bench (.read 0x103F 1)).hostOps = .access (.read (bench.blockBase + (0x1000 + 63)) 1) :: [] := by
  decide

theorem test_witness_BufBytes_write :
    (asking bench (.write 0x103F 1 7#32)).turn = .host ∧ (asking bench (.write 0x103F 1 7#32)).busy = false ∧
      (asking bench (.write 0x103F 1 7#32)).hostOps = .access (.write (bench.blockBase + (0x1000 + 63)) 1 7#32) :: [] := by
  decide

theorem test_witness_PosWords_read :
    (asking bench (.read 0x100F8 4)).turn = .host ∧ (asking bench (.read 0x100F8 4)).busy = false ∧ 15 < bench.posCap.toNat ∧
      (asking bench (.read 0x100F8 4)).hostOps = .access (.read (bench.blockBase + (0x10000 + 16 * 15 + 4 * 2)) 4) :: [] := by
  decide

theorem test_witness_PosWords_write :
    (asking bench (.write 0x100F8 4 7#32)).turn = .host ∧ (asking bench (.write 0x100F8 4 7#32)).busy = false ∧
      (asking bench (.write 0x100F8 4 7#32)).hostOps =
        .access (.write (bench.blockBase + (0x10000 + 16 * 15 + 4 * 2)) 4 7#32) :: [] := by
  decide

theorem test_witness_PosWords_reserved_read :
    (asking bench (.read 0x100FC 4)).turn = .host ∧ (asking bench (.read 0x100FC 4)).busy = false ∧
      (asking bench (.read 0x100FC 4)).hostOps = .access (.read (bench.blockBase + (0x10000 + 16 * 15 + 4 * 3)) 4) :: [] := by
  decide

theorem test_witness_PosWords_reserved_write :
    (asking bench (.write 0x100FC 4 7#32)).turn = .host ∧ (asking bench (.write 0x100FC 4 7#32)).busy = false ∧
      (asking bench (.write 0x100FC 4 7#32)).hostOps =
        .access (.write (bench.blockBase + (0x10000 + 16 * 15 + 4 * 3)) 4 7#32) :: [] := by
  decide

theorem test_witness_Inadmissible_read :
    (asking bench (.read 0x1040 1)).turn = .host ∧ paramsOk bench.bufCap bench.posCap = true ∧ 0x1040 < 2 ^ 32 ∧
      ¬ (0x1040 ≤ 0x48 ∧ 0x1040 % 4 = 0 ∧ 1 = 4) ∧ ¬ (0x1000 ≤ 0x1040 ∧ 0x1040 < 0x1000 + bench.bufCap.toNat ∧ 1 = 1) ∧
      ¬ (0x10000 ≤ 0x1040 ∧ 0x1040 < 0x10000 + 16 * bench.posCap.toNat ∧ 0x1040 % 4 = 0 ∧ 1 = 4) ∧
      (asking bench (.read 0x1040 1)).hostOps = .access (.read (bench.blockBase + 0x1040) 1) :: [] := by
  decide

theorem test_witness_Inadmissible_write :
    (asking bench (.write 0x4C 4 0#32)).turn = .host ∧ 0x4C < 2 ^ 32 ∧ ¬ (0x4C ≤ 0x48 ∧ 0x4C % 4 = 0 ∧ 4 = 4) ∧
      ¬ (0x1000 ≤ 0x4C ∧ 0x4C < 0x1000 + bench.bufCap.toNat ∧ 4 = 1) ∧
      ¬ (0x10000 ≤ 0x4C ∧ 0x4C < 0x10000 + 16 * bench.posCap.toNat ∧ 0x4C % 4 = 0 ∧ 4 = 4) ∧
      (asking bench (.write 0x4C 4 0#32)).hostOps = .access (.write (bench.blockBase + 0x4C) 4 0#32) :: [] := by
  decide

theorem test_witness_WritesWhileBusy :
    (asking (holding bench 1#32) (.write 0x1000 1 0#32)).turn = .host ∧
      (asking (holding bench 1#32) (.write 0x1000 1 0#32)).busy = true ∧
      (asking (holding bench 1#32) (.write 0x1000 1 0#32)).hostOps = .access (.write 0x1000 1 0#32) :: [] ∧
      (asking (holding bench 1#32) (.write 0x1000 1 0#32)).locate 0x1000 1 = .next (.buf 0) :=
  ⟨by decide, by decide, by decide, rfl⟩

/-- The last offset of the window, while BUSY. -/
theorem test_witness_WritesWhileBusy_window :
    (asking (holding bench 1#32) (.write 0xFFFFFFFF 1 0#32)).turn = .host ∧
      (asking (holding bench 1#32) (.write 0xFFFFFFFF 1 0#32)).busy = true ∧ bench.blockBase ≤ 0xFFFFFFFF ∧
      0xFFFFFFFF < bench.blockBase + 2 ^ 32 := by
  decide

theorem test_witness_OutsideTheWindow_below :
    (asking { bench with blockBase := 0x100 } (.read 0xFF 1)).turn = .host ∧
      0xFF < (asking { bench with blockBase := 0x100 } (.read 0xFF 1)).blockBase ∧
      (asking { bench with blockBase := 0x100 } (.read 0xFF 1)).hostOps = .access (.read 0xFF 1) :: [] := by
  decide

theorem test_witness_OutsideTheWindow_above :
    (asking bench (.write 0x100000000 4 0#32)).turn = .host ∧
      (asking bench (.write 0x100000000 4 0#32)).blockBase + 2 ^ 32 ≤ 0x100000000 ∧
      (asking bench (.write 0x100000000 4 0#32)).hostOps = .access (.write 0x100000000 4 0#32) :: [] := by
  decide

theorem test_witness_ReadsWhileBusy_status :
    (asking (holding bench 1#32) (.read 4 4)).turn = .host ∧ (asking (holding bench 1#32) (.read 4 4)).busy = true ∧
      (asking (holding bench 1#32) (.read 4 4)).hostOps = .access (.read 4 4) :: [] ∧
      (asking (holding bench 1#32) (.read 4 4)).locate 4 4 = .next (.reg .status) :=
  ⟨by decide, by decide, by decide, rfl⟩

theorem test_witness_ReadsWhileBusy_other :
    (asking (holding bench 1#32) (.read 0x1000 1)).turn = .host ∧ (asking (holding bench 1#32) (.read 0x1000 1)).busy = true ∧
      (asking (holding bench 1#32) (.read 0x1000 1)).hostOps = .access (.read 0x1000 1) :: [] ∧
      (asking (holding bench 1#32) (.read 0x1000 1)).locate 0x1000 1 = .next (.buf 0) ∧ Place.buf 0 ≠ .reg .status :=
  ⟨by decide, by decide, by decide, rfl, by decide⟩

theorem test_witness_OnlyACmdWrite :
    ∃ t, step (asking bench (.write 0 4 1#32)) = .next t ∧ (asking bench (.write 0 4 1#32)).pending = none ∧
      t.pending = some 1#32 :=
  ⟨_, rfl, by decide, by decide⟩

theorem test_witness_Stops_fault : step (asking { bench with blockBase := 0x100 } (.read 0xFF 1)) = .fault .outsideWindow := rfl

theorem test_witness_Stops_refused : step (asking bench (.read 0xFFFFFFFF 1)) = .refused .reservedOffset := rfl

theorem test_witness_CommandLifeCycle :
    ({ bench with hostOps := asmCmd 0 .pack32 }).busy = false ∧ ({ bench with hostOps := asmCmd 0 .pack32 }).schedule = [] ∧
      ({ bench with hostOps := asmCmd 0 .pack32 }).hostOps = asmCmd bench.blockBase .pack32 ++ [] := by
  decide

theorem test_witness_WaitPolls :
    ({ bench with hostOps := [.wait] }).turn = .host ∧ ({ bench with hostOps := [.wait] }).hostOps = .wait :: [] := by
  decide

theorem test_witness_PendingCommandCompletes :
    ({ holding bench 1#32 with hostOps := [.wait, .access (.read 4 4)], schedule := [.host, .host] }).pending = some 1#32 ∧
      (∀ op ∈ [HostOp.wait, .access (.read 4 4)], op = .wait ∨ op = .access (.read (bench.blockBase + 4) 4)) ∧
      Turn.reset ∉ [Turn.host, Turn.host] := by
  decide

/-- A schedule in which a reset cancels the command before the block's turn. -/
theorem test_witness_PendingCommandCompletes_cancelled :
    ({ holding bench 1#32 with hostOps := [.wait], schedule := [.host, .reset] }).pending = some 1#32 ∧
      ∀ op ∈ [HostOp.wait], op = .wait ∨ op = .access (.read (bench.blockBase + 4) 4) := by
  decide

/-- A state that meets all four invariants and goes on. -/
theorem test_witness_invariants :
    Memory.wf (withPos [⟨5, 70, 9⟩]).mem ∧ (withPos [⟨5, 70, 9⟩]).storageOk ∧ (withPos [⟨5, 70, 9⟩]).statusOk ∧
      (withPos [⟨5, 70, 9⟩]).outputsOk ∧ ∃ t, step (holding (withPos [⟨5, 70, 9⟩]) 7#32) = .next t :=
  ⟨by decide, by decide, by decide, by decide, _, rfl⟩

end Sys2Proof.Tests
end

section
/-! What a command can stage or raise, and from it all that the block's turn can do. -/

namespace Sys2Proof.Machine

/-! ### Reports -/

/-- The reports of an error that a command word can end in (60_exceptions.md R201). -/
inductive Report.Raised : Report → Prop where
  | range {f : FieldCode} (hf : f ≠ .none) (v : Int) (i : Nat) : Raised (.range f v i)
  | bounds (endBit : Nat) : Raised (.bounds endBit)
  | illegalCmd (w : Word) : Raised (.illegalCmd w)
  | illegalArg (n : Word) : Raised (.illegalArg n)
  | capacity (n : Word) : Raised (.capacity n)

/-- The first bad field of a position is a field. -/
theorem Coord.firstBad_ne_none {c : Coord} {f : FieldCode} {v : Int} (h : c.firstBad = some (f, v)) : f ≠ .none := by
  simp only [Coord.firstBad] at h
  rintro rfl
  split_ifs at h <;> simp at h

theorem checkRange_error_raised {c : Coord} {i : Nat} {r : Report} (h : checkRange c i = .error r) : r.Raised := by
  rw [checkRange_eq] at h
  split at h
  · cases h
  · next f v hb =>
    cases h
    exact .range (Coord.firstBad_ne_none hb) v i

theorem pack32_error_raised {c : Coord} {i : Nat} {r : Report} (h : pack32 c i = .error r) : r.Raised := by
  rcases hc : checkRange c i with e | u
  · simp only [pack32, hc, Except.error.injEq] at h
    exact h ▸ checkRange_error_raised hc
  · simp only [pack32, hc] at h
    cases h

theorem packHalf_error_raised {c : Coord} {r : Report} (h : packHalf c = .error r) : r.Raised := by
  rcases hc : checkRange c 0 with e | u
  · simp only [packHalf, hc, Except.error.injEq] at h
    exact h ▸ checkRange_error_raised hc
  · simp only [packHalf, hc] at h
    split at h
    · cases h
      exact .range (by decide) _ _
    · cases h

theorem packLoop_error_raised {cs : List Coord} {i : Nat} {B : List Byte} {r : Report}
    (h : packLoop cs i B = .error r) : r.Raised := by
  induction cs generalizing i B with
  | nil => cases h
  | cons c cs ih =>
    rcases hc : pack32 c i with e | v
    · simp only [packLoop, hc, Except.error.injEq] at h
      exact h ▸ pack32_error_raised hc
    · simp only [packLoop, hc] at h
      exact ih h

theorem bitCheck_error_raised {o n len : Word} {r : Report} (h : bitCheck o n len = .error r) : r.Raised := by
  simp only [bitCheck] at h
  split_ifs at h <;> cases h
  · exact .illegalArg n
  · exact .bounds _

/-- A command that raises, raises one of the reports of the error table. -/
theorem State.effect_error_raised {s : State} {i : Instr} {r : Report} (h : s.effect i = .error r) : r.Raised := by
  cases i <;> simp only [State.effect] at h
  case pack32 =>
    simp only [pack32Effect] at h
    split at h <;> cases h
    exact pack32_error_raised ‹_›
  case unpack32 => cases h
  case pack16h =>
    simp only [pack16hEffect] at h
    split at h <;> cases h
    exact packHalf_error_raised ‹_›
  case unpack16h => cases h
  case wrbits =>
    simp only [wrbitsEffect] at h
    split at h <;> cases h
    exact bitCheck_error_raised ‹_›
  case rdbits =>
    simp only [rdbitsEffect] at h
    split at h <;> cases h
    exact bitCheck_error_raised ‹_›
  case packm =>
    simp only [packmEffect] at h
    split_ifs at h
    · cases h; exact .capacity _
    · cases h; exact .capacity _
    · split at h <;> cases h
      exact packLoop_error_raised ‹_›
  case unpackm =>
    simp only [unpackmEffect] at h
    split_ifs at h <;> cases h
    · exact .capacity _
    · exact .bounds _

/-! ### What a command stages -/

/-- `s.Staged i u`: the states `u` that command `i`, run in `s`, can stage; each result register and memory that is listed as
written by the command (30_encoding.md R82) may hold any value, but for the outputs, which hold the decoded position. -/
inductive State.Staged (s : State) : Instr → State → Prop where
  | pack32 (p : Word) : Staged s .pack32 (s.setPacked p)
  | unpack32 : Staged s .unpack32 (s.setOut (Machine.unpack32 s.packed.toNat))
  | pack16h (p : Word) (h : Bool) : Staged s .pack16h ((s.setPacked p).setHalf h)
  | unpack16h : Staged s .unpack16h (s.setOut (unpackHalf (s.packed.extractLsb' 0 16).toNat s.half))
  | wrbits (m : Memory) : Staged s .wrbits (s.setMem m)
  | rdbits (v : Word) : Staged s .rdbits (s.setBitval v)
  | packm (m : Memory) (l : Word) : Staged s .packm ((s.setMem m).setBufLen l)
  | unpackm (m : Memory) : Staged s .unpackm (s.setMem m)

theorem State.effect_ok_staged {s u : State} {i : Instr} (h : s.effect i = .ok u) : s.Staged i u := by
  cases i <;> simp only [State.effect] at h
  case pack32 =>
    simp only [pack32Effect] at h
    split at h <;> cases h
    exact .pack32 _
  case unpack32 => cases h; exact .unpack32
  case pack16h =>
    simp only [pack16hEffect] at h
    split at h <;> cases h
    exact .pack16h _ _
  case unpack16h => cases h; exact .unpack16h
  case wrbits =>
    simp only [wrbitsEffect] at h
    split at h <;> cases h
    exact .wrbits _
  case rdbits =>
    simp only [rdbitsEffect] at h
    split at h <;> cases h
    exact .rdbits _
  case packm =>
    simp only [packmEffect] at h
    split_ifs at h
    split at h <;> cases h
    exact .packm _ _
  case unpackm =>
    simp only [unpackmEffect] at h
    split_ifs at h
    cases h
    exact .unpackm _

/-- No command stages a write of FAULT_SEEN. -/
theorem State.Staged.faultSeen {s u : State} {i : Instr} (h : s.Staged i u) : u.faultSeen = s.faultSeen := by
  cases h <;> rfl

/-! ### The block's turn -/

/-- All the block's turn can do, in terms of the completion: nothing while no command is pending, else the success of what a
command staged or the report of an error (60_exceptions.md R200, R208). -/
theorem State.blockTurn_next {s t : State} (h : s.blockTurn = .next t) :
    (s.pending = none ∧ t = s) ∨
      (s.pending ≠ none ∧
        ((∃ i u, s.Staged i u ∧ t = u.succeed) ∨ ∃ r : Report, r.Raised ∧ t = s.complete r)) := by
  obtain ⟨hp, hb⟩ | ⟨w, i, hp, -, hb⟩ | ⟨w, r, hp, -, hb⟩ := s.blockTurn_cases <;>
    obtain rfl := Host.Outcome.next.inj (h.symm.trans hb)
  · exact .inl ⟨hp, rfl⟩
  · refine .inr ⟨by simp [hp], ?_⟩
    rcases he : s.effect i with r | u
    · exact .inr ⟨r, State.effect_error_raised he, rfl⟩
    · exact .inl ⟨i, u, State.effect_ok_staged he, State.finish_ok s u⟩
  · exact .inr ⟨by simp [hp], .inr ⟨_, .illegalCmd w, rfl⟩⟩

/-- The block's turn leaves no command pending (10_state.md R43). -/
theorem State.blockTurn_pending {s t : State} (h : s.blockTurn = .next t) : t.pending = none := by
  obtain ⟨hp, rfl⟩ | ⟨-, ⟨i, u, -, rfl⟩ | ⟨r, -, rfl⟩⟩ := State.blockTurn_next h
  · exact hp
  · rfl
  · rfl

/-- A command's end makes FAULT_SEEN its old value OR the new ERR (10_state.md R28). -/
theorem State.blockTurn_faultSeen {s t : State} (h : s.blockTurn = .next t) (hp : s.pending ≠ none) :
    t.faultSeen = (s.faultSeen || t.err) := by
  obtain ⟨hn, -⟩ | ⟨-, ⟨i, u, hu, rfl⟩ | ⟨r, -, rfl⟩⟩ := State.blockTurn_next h
  · exact absurd hn hp
  · simp [hu.faultSeen]
  · simp

end Sys2Proof.Machine
end

section
/-! What the host's turn leaves unchanged, and what it reaches at the offset of a register. -/

namespace Sys2Proof.Machine

/-! ### Read-only state -/

/-- What the block alone writes: the report in STATUS, the output registers, the error registers and the capacities
(10_state.md R24, R33, R39, R40). BUSY is not among them, since a CMD write sets it. -/
structure ReadOnlyPart where
  err : Bool
  cause : Cause
  field : FieldCode
  faultSeen : Bool
  xOut : Word
  yOut : Word
  zOut : Word
  errValue : Word
  errIndex : Word
  bufCap : Word
  posCap : Word

/-- The read-only part of a state. -/
def State.readOnlyPart (s : State) : ReadOnlyPart :=
  ⟨s.err, s.cause, s.field, s.faultSeen, s.xOut, s.yOut, s.zOut, s.errValue, s.errIndex, s.bufCap, s.posCap⟩

theorem State.readOnlyPart_eq_iff {s t : State} :
    t.readOnlyPart = s.readOnlyPart ↔
      t.err = s.err ∧ t.cause = s.cause ∧ t.field = s.field ∧ t.faultSeen = s.faultSeen ∧
        t.xOut = s.xOut ∧ t.yOut = s.yOut ∧ t.zOut = s.zOut ∧ t.errValue = s.errValue ∧ t.errIndex = s.errIndex ∧
        t.bufCap = s.bufCap ∧ t.posCap = s.posCap := by
  simp only [State.readOnlyPart, ReadOnlyPart.mk.injEq]

@[simp] theorem State.readOnlyPart_popTurn (s : State) : s.popTurn.readOnlyPart = s.readOnlyPart := rfl

@[simp] theorem State.readOnlyPart_setHostOps (s : State) (ops : List HostOp) :
    (s.setHostOps ops).readOnlyPart = s.readOnlyPart := rfl

@[simp] theorem State.readOnlyPart_setMem (s : State) (m : Memory) : (s.setMem m).readOnlyPart = s.readOnlyPart := rfl

@[simp] theorem State.readOnlyPart_readPlace (s : State) (p : Place) :
    (s.readPlace p).readOnlyPart = s.readOnlyPart := by
  obtain ⟨v, n, h⟩ := s.readPlace_eq p
  rw [h]
  rfl

@[simp] theorem State.readOnlyPart_writeReg (s : State) (r : Reg) (v : Word) :
    (s.writeReg r v).readOnlyPart = s.readOnlyPart := by
  cases r <;> rfl

@[simp] theorem State.readOnlyPart_writePlace (s : State) (v : Word) (p : Place) :
    (s.writePlace v p).readOnlyPart = s.readOnlyPart := by
  obtain ⟨r, -, h⟩ | ⟨i, -, h⟩ | ⟨j, k, -, -, h⟩ | ⟨j, -, h⟩ := s.writePlace_cases v p <;> simp [h]

theorem State.readOnlyPart_of_doAccess {s t : State} {a : Access} (h : s.doAccess a = .next t) :
    t.readOnlyPart = s.readOnlyPart := by
  obtain ⟨_, _, p, -, -, rfl⟩ | ⟨_, _, v, p, -, -, -, rfl⟩ := State.doAccess_next h
  · exact s.readOnlyPart_readPlace p
  · exact s.readOnlyPart_writePlace v p

/-- No turn of the host changes read-only state. -/
theorem State.readOnlyPart_of_hostTurn {s t : State} (h : s.hostTurn = .next t) : t.readOnlyPart = s.readOnlyPart := by
  obtain ⟨-, rfl⟩ | ⟨a, rest, -, ha⟩ | ⟨rest, -, rfl⟩ := State.hostTurn_next h
  · rfl
  · simpa using State.readOnlyPart_of_doAccess ha
  · obtain ⟨ops, hops⟩ := s.poll_cases rest
    simp [hops]

/-! ### PENDING -/

@[simp] theorem State.readPlace_pending (s : State) (p : Place) : (s.readPlace p).pending = s.pending := by
  obtain ⟨v, n, h⟩ := s.readPlace_eq p
  rw [h]

/-- A write of any place but CMD leaves PENDING alone. -/
theorem State.writePlace_pending {s : State} {p : Place} (hp : p ≠ .reg .cmd) (v : Word) :
    (s.writePlace v p).pending = s.pending := by
  obtain ⟨r, rfl, h⟩ | ⟨i, -, h⟩ | ⟨j, k, -, -, h⟩ | ⟨j, -, h⟩ := s.writePlace_cases v p <;> rw [h]
  · exact State.writeReg_pending (fun hr => hp (by rw [hr])) v
  · rfl
  · rfl

/-- CMD is reached by a 32-bit access of the window's first offset only (10_state.md R21). -/
theorem State.locate_cmd {s : State} {addr size : Nat} (h : s.locate addr size = .next (.reg .cmd)) :
    addr = s.blockBase ∧ size = 4 := by
  obtain ⟨⟨hle, -⟩, hp⟩ := State.locate_next h
  obtain ⟨r, hr, hoff, hsize⟩ | ⟨i, hr, -⟩ | ⟨j, k, hr, -⟩ := State.placeAt_next hp
  · cases hr
    have hoff : addr - s.blockBase = 0 := hoff
    exact ⟨by omega, hsize⟩
  · cases hr
  · cases hr

/-- An access that makes PENDING hold a word is a write of that word to CMD (10_state.md R22). -/
theorem State.doAccess_latches {s t : State} {a : Access} {w : Word} (h : s.doAccess a = .next t)
    (hs : s.pending = none) (ht : t.pending = some w) : a = .write s.blockBase 4 w := by
  obtain ⟨_, _, p, -, -, rfl⟩ | ⟨addr, size, v, p, rfl, hl, -, rfl⟩ := State.doAccess_next h
  · simp [hs] at ht
  · by_cases hp : p = .reg .cmd
    · subst hp
      obtain ⟨rfl, rfl⟩ := State.locate_cmd hl
      have hv : v = w := Option.some.inj ht
      rw [hv]
    · rw [State.writePlace_pending hp, hs] at ht
      cases ht

/-- A turn of the host that makes PENDING hold a word is a write of that word to CMD (10_state.md R22). -/
theorem State.hostTurn_latches {s t : State} {w : Word} (h : s.hostTurn = .next t) (hs : s.pending = none)
    (ht : t.pending = some w) : ∃ rest, s.hostOps = .access (.write s.blockBase 4 w) :: rest := by
  obtain ⟨-, rfl⟩ | ⟨a, rest, ho, ha⟩ | ⟨rest, -, rfl⟩ := State.hostTurn_next h
  · rw [hs] at ht
    cases ht
  · have := State.doAccess_latches ha hs ht
    exact ⟨rest, by rw [ho, this]; rfl⟩
  · obtain ⟨ops, hops⟩ := s.poll_cases rest
    simp [hops, hs] at ht

/-! ### Accesses in the host's turn -/

theorem State.doAccess_read {s : State} {addr size : Nat} {p : Place} (h : s.locate addr size = .next p) :
    s.doAccess (.read addr size) = .next (s.readPlace p) := by
  simp only [State.doAccess, h]

theorem State.doAccess_write {s : State} {addr size : Nat} {p : Place} (h : s.locate addr size = .next p)
    (hb : s.busy = false) (v : Word) : s.doAccess (.write addr size v) = .next (s.writePlace v p) := by
  simp [State.doAccess, h, hb]

/-- A write while busy is refused (70_reset_and_hazards.md R245). -/
theorem State.doAccess_write_of_busy {s : State} {addr size : Nat} {p : Place} (h : s.locate addr size = .next p)
    (hb : s.busy = true) (v : Word) : s.doAccess (.write addr size v) = .refused .writeWhileBusy := by
  simp [State.doAccess, h, hb]

/-- A 32-bit access at the offset of a register reaches it (20_memory.md R60, R61). -/
theorem State.locate_reg (s : State) (r : Reg) : s.locate (s.blockBase + r.offset) 4 = .next (.reg r) := by
  have hlt : r.offset < 2 ^ 32 := by cases r <;> decide
  have hp : s.placeAt r.offset 4 = .next (.reg r) := by cases r <;> rfl
  simp only [State.locate, Nat.add_sub_cancel_left, hp]
  exact if_pos ⟨by omega, by omega⟩

/-- While the block is not busy, a read answers the value of its place. -/
theorem State.readPlace_of_idle {s : State} (hb : s.busy = false) (p : Place) :
    s.readPlace p = s.note (s.valueAt p) := by
  simp [State.readPlace, hb]

section
variable {s : State} {rest : List HostOp} (ht : s.turn = .host)
include ht

/-- In the host's turn a step is the next access of the host's program. -/
theorem step_of_access {a : Access} (ho : s.hostOps = .access a :: rest) :
    step s = (s.popTurn.setHostOps rest).doAccess a := by
  simp [step_of_host ht, State.hostTurn, ho]

/-- A 32-bit write at the offset of a register, while the block is not busy, writes the register. -/
theorem step_of_regWrite {r : Reg} {v : Word} (hb : s.busy = false)
    (ho : s.hostOps = .access (.write (s.blockBase + r.offset) 4 v) :: rest) :
    step s = .next ((s.popTurn.setHostOps rest).writeReg r v) := by
  rw [step_of_access ht ho]
  exact State.doAccess_write (State.locate_reg (s.popTurn.setHostOps rest) r) hb v

/-- A 32-bit read at the offset of a register, while the block is not busy, answers the register's value. -/
theorem step_of_regRead {r : Reg} (hb : s.busy = false)
    (ho : s.hostOps = .access (.read (s.blockBase + r.offset) 4) :: rest) :
    step s = .next ((s.popTurn.setHostOps rest).note (.word (s.readReg r))) := by
  rw [step_of_access ht ho]
  refine (State.doAccess_read (State.locate_reg (s.popTurn.setHostOps rest) r)).trans ?_
  rw [State.readPlace_of_idle (s := s.popTurn.setHostOps rest) hb]
  cases r <;> rfl

/-- A 32-bit write at the offset of a register, while the block is busy, is refused. -/
theorem step_of_regWrite_of_busy {r : Reg} {v : Word} (hb : s.busy = true)
    (ho : s.hostOps = .access (.write (s.blockBase + r.offset) 4 v) :: rest) : step s = .refused .writeWhileBusy := by
  rw [step_of_access ht ho]
  exact State.doAccess_write_of_busy (State.locate_reg (s.popTurn.setHostOps rest) r) hb v

end

/-! ### Writes of single registers -/

/-- The registers of access "R" (10_state.md R21). -/
def Reg.readOnly : List Reg := [.status, .xOut, .yOut, .zOut, .errValue, .errIndex, .bufCap, .posCap]

theorem State.writeReg_readOnly {r : Reg} (h : r ∈ Reg.readOnly) (s : State) (v : Word) : s.writeReg r v = s := by
  fin_cases h <;> rfl

/-- The clamp of BUF_LEN is a minimum (10_state.md R38). -/
theorem State.clampLen_eq_min (s : State) (v : Word) :
    s.clampLen v = BitVec.ofNat 32 (min v.toNat s.bufCap.toNat) := by
  simp only [State.clampLen]
  split
  · rw [Nat.min_eq_left ‹_›, BitVec.ofNat_toNat, BitVec.setWidth_eq]
  · rw [Nat.min_eq_right (by omega), BitVec.ofNat_toNat, BitVec.setWidth_eq]

end Sys2Proof.Machine
end

section
/-! The invariants of STATUS and of the output registers. -/

namespace Sys2Proof.Machine

/-! ### STATUS and the error registers -/

theorem State.statusOk_of_readOnlyPart_eq {s t : State} (h : t.readOnlyPart = s.readOnlyPart) (hs : s.statusOk) :
    t.statusOk := by
  obtain ⟨herr, hcause, hfield, hseen, -, -, -, hvalue, hindex, -, -⟩ := State.readOnlyPart_eq_iff.1 h
  simpa only [State.statusOk, herr, hcause, hfield, hseen, hvalue, hindex] using hs

/-- A success leaves a coherent report. -/
theorem State.succeed_statusOk (s : State) : s.succeed.statusOk := by simp [State.statusOk]

/-- A report that a command word can end in leaves a coherent report. -/
theorem State.complete_statusOk (s : State) {r : Report} (h : r.Raised) : (s.complete r).statusOk := by
  cases h with
  | range hf v i => simp [State.statusOk, Report.isError, Report.range, hf]
  | bounds endBit => simp [State.statusOk, Report.isError, Report.bounds]
  | illegalCmd w => simp [State.statusOk, Report.isError, Report.illegalCmd]
  | illegalArg n => simp [State.statusOk, Report.isError, Report.illegalArg]
  | capacity n => simp [State.statusOk, Report.isError, Report.capacity]

theorem State.blockTurn_statusOk {s t : State} (hs : s.statusOk) (h : s.blockTurn = .next t) : t.statusOk := by
  obtain ⟨-, rfl⟩ | ⟨-, ⟨i, u, -, rfl⟩ | ⟨r, hr, rfl⟩⟩ := State.blockTurn_next h
  · exact hs
  · exact u.succeed_statusOk
  · exact s.complete_statusOk hr

theorem State.blockReset_statusOk (s : State) : s.blockReset.statusOk := by simp [State.statusOk]

/-! ### The output registers -/

/-- The positions that the decoders answer: x and z of four bits, y of -64 to 447 (10_state.md R33). -/
def Coord.decoded (c : Coord) : Prop := (0 ≤ c.x ∧ c.x ≤ 15) ∧ (0 ≤ c.z ∧ c.z ≤ 15) ∧ -64 ≤ c.y ∧ c.y ≤ 447

theorem unpack32_decoded (p : Nat) : (unpack32 p).decoded := by
  rw [unpack32_eq]
  simp only [Coord.decoded]
  omega

theorem unpackHalf_decoded (p : Nat) (upper : Bool) : (unpackHalf p upper).decoded := by
  rw [unpackHalf_eq]
  simp only [Coord.decoded]
  split <;> omega

theorem State.setOut_outputsOk (s : State) {c : Coord} (h : c.decoded) : (s.setOut c).outputsOk := by
  obtain ⟨⟨hx0, hx⟩, ⟨hz0, hz⟩, hy0, hy⟩ := h
  have hyInt : (u32 c.y).toInt = c.y := BitVec.toInt_ofInt_eq_self (by decide) (by omega) (by omega)
  simp only [State.outputsOk, State.setOut_xOut, State.setOut_yOut, State.setOut_zOut, hyInt, zext32,
    BitVec.toNat_ofNat]
  omega

/-- A command keeps the outputs in range: only the two decoders write them. -/
theorem State.Staged.outputsOk {s u : State} {i : Instr} (h : s.Staged i u) (hs : s.outputsOk) : u.outputsOk := by
  cases h with
  | unpack32 => exact s.setOut_outputsOk (unpack32_decoded _)
  | unpack16h => exact s.setOut_outputsOk (unpackHalf_decoded _ _)
  | _ => exact hs

theorem State.outputsOk_of_readOnlyPart_eq {s t : State} (h : t.readOnlyPart = s.readOnlyPart) (hs : s.outputsOk) :
    t.outputsOk := by
  obtain ⟨-, -, -, -, hx, hy, hz, -, -, -, -⟩ := State.readOnlyPart_eq_iff.1 h
  simpa only [State.outputsOk, hx, hy, hz] using hs

theorem State.blockTurn_outputsOk {s t : State} (hs : s.outputsOk) (h : s.blockTurn = .next t) : t.outputsOk := by
  obtain ⟨-, rfl⟩ | ⟨-, ⟨i, u, hu, rfl⟩ | ⟨r, -, rfl⟩⟩ := State.blockTurn_next h
  · exact hs
  · exact hu.outputsOk hs
  · exact hs

theorem State.blockReset_outputsOk (s : State) : s.blockReset.outputsOk := by simp [State.outputsOk]

end Sys2Proof.Machine
end

section
/-! STATUS as the host reads it (10_state.md R23 to R29). -/

namespace Sys2Proof.Machine

theorem Cause.code_lt (c : Cause) : c.code < 8 := by cases c <;> decide

theorem FieldCode.code_lt (f : FieldCode) : f.code < 4 := by cases f <;> decide

/-- The fields of STATUS as the digits of its number (10_state.md R23, R29). -/
theorem State.statusWord_digits (s : State) :
    s.statusWord.toNat / 2 ^ 0 % 2 = s.pending.isSome.toNat ∧ s.statusWord.toNat / 2 ^ 1 % 2 = s.err.toNat ∧
      s.statusWord.toNat / 2 ^ 2 % 2 ^ 3 = s.cause.code ∧ s.statusWord.toNat / 2 ^ 5 % 2 ^ 2 = s.field.code ∧
      s.statusWord.toNat / 2 ^ 7 % 2 = s.faultSeen.toNat ∧ s.statusWord.toNat / 2 ^ 8 % 2 ^ 24 = 0 := by
  have hbusy := Bool.toNat_lt s.pending.isSome
  have herr := Bool.toNat_lt s.err
  have hcause := s.cause.code_lt
  have hfield := s.field.code_lt
  have hseen := Bool.toNat_lt s.faultSeen
  simp only [State.statusWord, State.busy, BitVec.toNat_ofNat]
  omega

/-- A bit of a word is the binary digit at its place. -/
theorem getLsbD_of_digit {w : Word} {i : Nat} {b : Bool} (h : w.toNat / 2 ^ i % 2 = b.toNat) : w.getLsbD i = b := by
  rw [BitVec.getLsbD, Nat.testBit_eq_decide_div_mod_eq, h]
  cases b <;> rfl

/-- A field of a word is the digit at its place. -/
theorem extractLsb'_of_digit {w : Word} {start len n : Nat} (h : w.toNat / 2 ^ start % 2 ^ len = n) :
    w.extractLsb' start len = BitVec.ofNat len n := by
  subst h
  apply BitVec.eq_of_toNat_eq
  simp [Nat.shiftRight_eq_div_pow]

end Sys2Proof.Machine
end

section
/-! The statements of 10_state.md. -/

namespace Sys2Proof.Machine

/-- Settles O53: a host's turn leaves the report alone, a command's end and a reset leave a coherent one. -/
theorem statusStaysCoherent : Obligations.StatusStaysCoherent := by
  intro s t hs h
  obtain ⟨-, rfl⟩ | ⟨-, hb⟩ | ⟨-, hh⟩ := step_next h
  · exact s.popTurn.blockReset_statusOk
  · exact State.blockTurn_statusOk (s := s.popTurn) hs hb
  · exact State.statusOk_of_readOnlyPart_eq (State.readOnlyPart_of_hostTurn hh) hs

/-- Settles O54: only the two decoders write the outputs, and what they answer is in range. -/
theorem outputsStayInDecodedRange : Obligations.OutputsStayInDecodedRange := by
  intro s t hs h
  obtain ⟨-, rfl⟩ | ⟨-, hb⟩ | ⟨-, hh⟩ := step_next h
  · exact s.popTurn.blockReset_outputsOk
  · exact State.blockTurn_outputsOk (s := s.popTurn) hs hb
  · exact State.outputsOk_of_readOnlyPart_eq (State.readOnlyPart_of_hostTurn hh) hs

/-- Settles O43, by the read-only part that every turn of the host keeps. -/
theorem hostCannotChangeReadOnlyState : Obligations.HostCannotChangeReadOnlyState := by
  intro s t ht h
  rw [step_of_host ht] at h
  exact State.readOnlyPart_eq_iff.1 (State.readOnlyPart_of_hostTurn (s := s.popTurn) h)

/-- Settles O31, turn by turn: the host keeps FAULT_SEEN with the rest of its read-only part, the block adds the ERR of a
command's end, a reset clears it. -/
theorem faultSeenIsSticky : Obligations.FaultSeenIsSticky := by
  refine ⟨fun s t h => ⟨fun ht => ?_, fun ht hp => ?_, fun ht hp => ?_, fun ht => ?_⟩, rfl⟩
  · obtain ⟨-, -, -, hseen, -⟩ := hostCannotChangeReadOnlyState s t ht h
    exact hseen
  · rw [step_of_block ht, State.blockTurn_of_idle (s := s.popTurn) hp] at h
    cases h
    rfl
  · rw [step_of_block ht] at h
    exact State.blockTurn_faultSeen (s := s.popTurn) h hp
  · rw [step_of_reset ht] at h
    cases h
    rfl

/-- Settles O44: a reset and the block's turn leave no command pending, and in the host's turn only a write of CMD latches. -/
theorem onlyACmdWriteStartsACommand : Obligations.OnlyACmdWriteStartsACommand := by
  intro s t w h hs ht
  obtain ⟨-, rfl⟩ | ⟨-, hb⟩ | ⟨hturn, hh⟩ := step_next h
  · cases ht
  · rw [State.blockTurn_pending hb] at ht
    cases ht
  · exact ⟨hturn, State.hostTurn_latches (s := s.popTurn) hh hs ht⟩

/-- Settles O33: CMD stands at the window's first offset; a write of it is the latch, a read of it answers 0. -/
theorem cmdLatchesACommand : Obligations.CmdLatchesACommand := fun _ _ _ ht =>
  ⟨fun hb ho => step_of_regWrite (r := .cmd) ht hb ho, fun hb ho => step_of_regRead (r := .cmd) ht hb ho,
    fun hb ho => step_of_regWrite_of_busy (r := .cmd) ht hb ho⟩

/-- Settles O34: the eight offsets are those of the registers of access "R", of which no write changes anything. -/
theorem readOnlyRegistersIgnoreWrites : Obligations.ReadOnlyRegistersIgnoreWrites := by
  intro s off v rest ht hb
  refine ⟨fun hoff ho => ?_, step_of_regRead (r := .bufCap) ht hb, step_of_regRead (r := .posCap) ht hb⟩
  obtain ⟨r, hr, rfl⟩ := List.mem_map.1 (show off ∈ Reg.readOnly.map Reg.offset from hoff)
  rw [step_of_regWrite ht hb ho, State.writeReg_readOnly hr]
  rfl

/-- Settles O35, register by register from what a write at a register's offset does; BUF_LEN by its clamp. -/
theorem writableRegistersStore : Obligations.WritableRegistersStore := by
  rintro s off v rest ht hb ho s' rfl
  have write : ∀ r : Reg, off = r.offset → step s = .next ((s.popTurn.setHostOps rest).writeReg r v) := by
    rintro r rfl
    exact step_of_regWrite ht hb ho
  refine ⟨write .xIn, write .yIn, write .zIn, write .packed, write .half, write .bitOffset, write .numBits,
    write .bitval, write .count, fun hoff => ?_⟩
  rw [write .bufLen hoff, State.writeReg, State.clampLen_eq_min]
  rfl

/-- Settles O3: in the block's turn a step is the block's, which executes the decoded command. -/
theorem stepRunsDecodedCommand : Obligations.StepRunsDecodedCommand := by
  intro s w i ht hp hd
  rw [step_of_block ht]
  exact State.blockTurn_of_command (s := s.popTurn) hp hd

/-- Settles O5: a turn with nothing to do only leaves the schedule. -/
theorem idleTurnsChangeNothing : Obligations.IdleTurnsChangeNothing := by
  refine fun s => ⟨fun ht hp => ?_, fun ht ho => ?_⟩
  · rw [step_of_block ht]
    exact State.blockTurn_of_idle (s := s.popTurn) hp
  · simp [step_of_host ht, State.hostTurn, ho, State.popTurn]

/-- Settles O32, from the digits of STATUS and the code of each cause and field. -/
theorem statusWordLayout : Obligations.StatusWordLayout := by
  intro s
  obtain ⟨hbusy, herr, hcause, hfield, hseen, hrest⟩ := s.statusWord_digits
  have cause : ∀ c : Cause, s.cause = c → s.statusWord.extractLsb' 2 3 = BitVec.ofNat 3 c.code := by
    rintro c rfl
    exact extractLsb'_of_digit hcause
  have field : ∀ f : FieldCode, s.field = f → s.statusWord.extractLsb' 5 2 = BitVec.ofNat 2 f.code := by
    rintro f rfl
    exact extractLsb'_of_digit hfield
  exact ⟨getLsbD_of_digit hbusy, getLsbD_of_digit herr,
    ⟨cause .none, cause .range, cause .bounds, cause .illegalCmd, cause .illegalArg, cause .capacity⟩,
    ⟨field .none, field .x, field .y, field .z⟩, getLsbD_of_digit hseen, extractLsb'_of_digit hrest⟩

end Sys2Proof.Machine
end

section
/-! What every step does to storage: memory, BUF_LEN and the parameters. -/

namespace Sys2Proof.Machine

/-! ### What the commands that store in memory stage -/

/-- A WRBITS that succeeds stores the touched bytes of the new field (42_bit_buffer.md R143). -/
theorem wrbitsEffect_ok {s u : State} (h : wrbitsEffect s = .ok u) :
    bitCheck s.bitOffset s.numBits s.bufLen = .ok () ∧
      u = s.setMem (Memory.storeBytes s.mem (bufAddr (s.bitOffset.toNat / 8))
        (((writeBits (s.bufBytes s.bufLen.toNat) s.bitOffset.toNat s.bitval.toNat s.numBits.toNat).drop
          (s.bitOffset.toNat / 8)).take (touchedCount s.bitOffset.toNat s.numBits.toNat))) := by
  simp only [wrbitsEffect] at h
  split at h <;> cases h
  exact ⟨‹_›, rfl⟩

/-- A PACKM that succeeds has room for its positions, and stores their stream and its length (43_bulk_bitstream.md
R163). -/
theorem packmEffect_ok {s u : State} (h : packmEffect s = .ok u) :
    s.count.toNat ≤ s.posCap.toNat ∧ bulkBytes s.count.toNat ≤ s.bufCap.toNat ∧
      ∃ B, packMultiple ((List.range s.count.toNat).map s.posCoord) = .ok B ∧
        u = (s.setMem (Memory.storeBytes s.mem (bufAddr 0) B)).setBufLen (zext32 (bulkBytes s.count.toNat)) := by
  simp only [packmEffect] at h
  split_ifs at h with hpos hbuf
  split at h <;> cases h
  exact ⟨Nat.not_lt.1 hpos, Nat.not_lt.1 hbuf, _, ‹_›, rfl⟩

/-- An UNPACKM that succeeds has room and bits for its positions, and stores them (43_bulk_bitstream.md R164). -/
theorem unpackmEffect_ok {s u : State} (h : unpackmEffect s = .ok u) :
    s.count.toNat ≤ s.posCap.toNat ∧ 17 * s.count.toNat ≤ 8 * s.bufLen.toNat ∧
      u = s.setMem (Memory.storePositions s.mem 0 (unpackMultiple (s.bufBytes s.bufLen.toNat) s.count.toNat)) := by
  simp only [unpackmEffect] at h
  split_ifs at h with hpos hlen
  cases h
  exact ⟨Nat.not_lt.1 hpos, Nat.not_lt.1 hlen, rfl⟩

/-! ### Lengths -/

@[simp] theorem State.bufBytes_length (s : State) (len : Nat) : (s.bufBytes len).length = len := by
  simp [State.bufBytes]

@[simp] theorem unpackMultiple_length (B : List Byte) (count : Nat) : (unpackMultiple B count).length = count := by
  simp [unpackMultiple]

theorem packLoop_length {cs : List Coord} {i : Nat} {B B' : List Byte} (h : packLoop cs i B = .ok B') :
    B'.length = B.length := by
  induction cs generalizing i B with
  | nil => cases h; rfl
  | cons c cs ih =>
    simp only [packLoop] at h
    split at h
    · cases h
    · rw [ih h, writeBits_length]

/-- A bitstream has the length that the size law gives (43_bulk_bitstream.md R160, R161). -/
theorem packMultiple_length {S : List Coord} {B : List Byte} (h : packMultiple S = .ok B) :
    B.length = bulkBytes S.length := by
  rw [packLoop_length h, List.length_replicate]

/-- A widened number is at most the number (it may have wrapped). -/
theorem zext32_toNat_le (v : Nat) : (zext32 v).toNat ≤ v := by
  rw [zext32, BitVec.toNat_ofNat]
  exact Nat.mod_le v _

/-! ### The relation that every step is in -/

/-- What holds between the storage of `s` and of a later `t`: the parameters are the same, the canonical form is kept, and,
where BUF_LEN is legal, it stays so and the bytes newly listed lie in BUF or in a coordinate word of POS. -/
def State.KeepsStorage (s t : State) : Prop :=
  (t.bufCap = s.bufCap ∧ t.posCap = s.posCap ∧ t.blockBase = s.blockBase) ∧
    (Memory.wf s.mem → Memory.wf t.mem) ∧
    (s.bufLen.toNat ≤ s.bufCap.toNat →
      t.bufLen.toNat ≤ t.bufCap.toNat ∧ ∀ c ∈ t.mem, (s.inBuf c.1 ∨ s.inPos c.1) ∨ c ∈ s.mem)

theorem State.keepsStorage_refl (s : State) : s.KeepsStorage s :=
  ⟨⟨rfl, rfl, rfl⟩, id, fun hlen => ⟨hlen, fun _ => .inr⟩⟩

/-- A new memory is fine where it is canonical and lists no new byte outside BUF and POS. -/
theorem State.keepsStorage_setMem {s : State} {m : Memory} (hwf : Memory.wf s.mem → Memory.wf m)
    (hmem : s.bufLen.toNat ≤ s.bufCap.toNat → ∀ c ∈ m, (s.inBuf c.1 ∨ s.inPos c.1) ∨ c ∈ s.mem) :
    s.KeepsStorage (s.setMem m) :=
  ⟨⟨rfl, rfl, rfl⟩, hwf, fun hlen => ⟨hlen, hmem hlen⟩⟩

/-- A store of bytes of BUF that fit into it. -/
theorem State.keepsStorage_storeBytes {s : State} {i : Nat} {bs : List Byte}
    (hfit : s.bufLen.toNat ≤ s.bufCap.toNat → bs ≠ [] → i + bs.length ≤ s.bufCap.toNat) :
    s.KeepsStorage (s.setMem (Memory.storeBytes s.mem (bufAddr i) bs)) := by
  refine State.keepsStorage_setMem (Memory.storeBytes_wf _ _) fun hlen c hc => ?_
  refine (Memory.mem_storeBytes hc).imp_left fun hrange => .inl ?_
  have hne : bs ≠ [] := by
    rintro rfl
    simp only [List.length_nil] at hrange
    omega
  have := hfit hlen hne
  simp only [bufAddr] at hrange
  omega

/-- A store of POS entries that POS holds. -/
theorem State.keepsStorage_storePositions {s : State} {cs : List Coord} (hfit : cs.length ≤ s.posCap.toNat) :
    s.KeepsStorage (s.setMem (Memory.storePositions s.mem 0 cs)) := by
  refine State.keepsStorage_setMem (Memory.storePositions_wf _ _) fun _ c hc => ?_
  exact (Memory.mem_storePositions hc).imp_left fun hrange => .inr (by omega)

/-- A store of a coordinate word of POS. -/
theorem State.keepsStorage_storeWord {s : State} {j k : Nat} (w : Word) (hj : j < s.posCap.toNat) (hk : k < 3) :
    s.KeepsStorage (s.setMem (Memory.storeWord s.mem (posAddr j k) w)) := by
  refine State.keepsStorage_setMem (Memory.storeWord_wf _ _) fun _ c hc => ?_
  refine (Memory.mem_storeWord hc).imp_left fun hrange => .inr ?_
  simp only [posAddr] at hrange
  omega

/-! ### The block's turn -/

/-- The bytes that WRBITS stores lie in BUF[0..BUF_LEN-1]. -/
theorem wrbitsEffect_keepsStorage {s u : State} (h : wrbitsEffect s = .ok u) : s.KeepsStorage u := by
  obtain ⟨-, rfl⟩ := wrbitsEffect_ok h
  refine State.keepsStorage_storeBytes fun hlen hne => ?_
  have hpos := List.length_pos_of_ne_nil hne
  simp only [List.length_take, List.length_drop, writeBits_length, State.bufBytes_length] at hpos ⊢
  omega

/-- The bytes that PACKM stores fit into BUF, and so does the length that it sets. -/
theorem packmEffect_keepsStorage {s u : State} (h : packmEffect s = .ok u) : s.KeepsStorage u := by
  obtain ⟨-, hfit, B, hB, rfl⟩ := packmEffect_ok h
  have hBlen := packMultiple_length hB
  rw [List.length_map, List.length_range] at hBlen
  obtain ⟨hparams, hwf, hmem⟩ :=
    State.keepsStorage_storeBytes (s := s) (i := 0) (bs := B) fun _ _ => by omega
  exact ⟨hparams, hwf, fun hlen => ⟨(zext32_toNat_le _).trans hfit, (hmem hlen).2⟩⟩

/-- The entries that UNPACKM stores are entries of POS. -/
theorem unpackmEffect_keepsStorage {s u : State} (h : unpackmEffect s = .ok u) : s.KeepsStorage u := by
  obtain ⟨hpos, -, rfl⟩ := unpackmEffect_ok h
  exact State.keepsStorage_storePositions (by rwa [unpackMultiple_length])

/-- Three commands store in memory; the others leave storage alone. -/
theorem State.effect_keepsStorage {s u : State} {i : Instr} (h : s.effect i = .ok u) : s.KeepsStorage u := by
  cases i with
  | wrbits => exact wrbitsEffect_keepsStorage h
  | packm => exact packmEffect_keepsStorage h
  | unpackm => exact unpackmEffect_keepsStorage h
  | pack32 | unpack32 | pack16h | unpack16h | rdbits =>
    cases State.effect_ok_staged h
    exact s.keepsStorage_refl

theorem State.blockTurn_keepsStorage {s t : State} (h : s.blockTurn = .next t) : s.KeepsStorage t := by
  obtain ⟨-, hb⟩ | ⟨_, i, -, -, hb⟩ | ⟨_, _, -, -, hb⟩ := s.blockTurn_cases <;>
    rw [Host.Outcome.next.inj (h.symm.trans hb)]
  · exact s.keepsStorage_refl
  · rcases he : s.effect i with r | u
    · exact s.keepsStorage_refl
    · exact (State.effect_keepsStorage he : s.KeepsStorage u)
  · exact s.keepsStorage_refl

/-! ### The host's turn and the reset -/

theorem State.readPlace_keepsStorage (s : State) (p : Place) : s.KeepsStorage (s.readPlace p) := by
  obtain ⟨v, n, h⟩ := s.readPlace_eq p
  rw [h]
  exact s.keepsStorage_refl

/-- Registers do not lie in memory, and BUF_LEN is clamped (10_state.md R38). -/
theorem State.writeReg_keepsStorage (s : State) (r : Reg) (v : Word) : s.KeepsStorage (s.writeReg r v) := by
  obtain ⟨-, -, ⟨hmem, -, hbuf, hpos, hbase⟩, -⟩ := s.writeReg_frame r v
  refine ⟨⟨hbuf, hpos, hbase⟩, by rw [hmem]; exact id, fun hlen => ⟨State.writeReg_bufLen_le hlen r v, ?_⟩⟩
  rw [hmem]
  exact fun _ => .inr

/-- A write stores only at the place that its access reaches, which lies in BUF or POS. -/
theorem State.writePlace_keepsStorage {s : State} {addr size : Nat} {p : Place} (h : s.locate addr size = .next p)
    (v : Word) : s.KeepsStorage (s.writePlace v p) := by
  obtain ⟨-, hp⟩ := State.locate_next h
  obtain ⟨r, rfl, -, -⟩ | ⟨i, rfl, hi, -, -⟩ | ⟨j, k, rfl, hj, hk, -, -⟩ := State.placeAt_next hp
  · exact s.writeReg_keepsStorage r v
  · exact State.keepsStorage_storeBytes (bs := [v.extractLsb' 0 8]) fun _ _ => hi
  · simp only [State.writePlace]
    split
    · exact s.keepsStorage_refl
    · exact State.keepsStorage_storeWord v hj (by omega)

theorem State.doAccess_keepsStorage {s t : State} {a : Access} (h : s.doAccess a = .next t) : s.KeepsStorage t := by
  obtain ⟨_, _, p, -, -, rfl⟩ | ⟨_, _, v, p, -, hl, -, rfl⟩ := State.doAccess_next h
  · exact s.readPlace_keepsStorage p
  · exact State.writePlace_keepsStorage hl v

theorem State.hostTurn_keepsStorage {s t : State} (h : s.hostTurn = .next t) : s.KeepsStorage t := by
  obtain ⟨-, rfl⟩ | ⟨a, rest, -, ha⟩ | ⟨rest, -, rfl⟩ := State.hostTurn_next h
  · exact t.keepsStorage_refl
  · exact State.doAccess_keepsStorage (s := s.setHostOps rest) ha
  · obtain ⟨ops, hops⟩ := s.poll_cases rest
    rw [hops]
    exact s.readPlace_keepsStorage (.reg .status)

/-- The reset empties memory and sets BUF_LEN to 0 (70_reset_and_hazards.md R240). -/
theorem State.blockReset_keepsStorage (s : State) : s.KeepsStorage s.blockReset :=
  ⟨⟨rfl, rfl, rfl⟩, fun _ => List.Pairwise.nil, fun _ => ⟨Nat.zero_le _, fun _ hc => nomatch hc⟩⟩

/-- Whoever moves, a step keeps storage. -/
theorem step_keepsStorage {s t : State} (h : step s = .next t) : s.KeepsStorage t := by
  obtain ⟨-, rfl⟩ | ⟨-, hb⟩ | ⟨-, hh⟩ := step_next h
  · exact s.popTurn.blockReset_keepsStorage
  · exact State.blockTurn_keepsStorage (s := s.popTurn) hb
  · exact State.hostTurn_keepsStorage (s := s.popTurn) hh

end Sys2Proof.Machine
end

section
/-! Host accesses to BUF and POS, and the accesses that reach nothing. -/

namespace Sys2Proof.Machine

/-! ### What a byte and a word read as after a store -/

theorem State.byteAt_setMem_store (s : State) (a k : Nat) (b : Byte) :
    (s.setMem (Memory.store s.mem a b)).byteAt k = if k = a then b else s.byteAt k := by
  simp only [State.byteAt, State.setMem_mem, State.setMem_epoch, Memory.lookup_store]
  split <;> rfl

theorem State.byteAt_setMem_storeWord_of_outside (s : State) {a k : Nat} (w : Word) (h : k < a ∨ a + 4 ≤ k) :
    (s.setMem (Memory.storeWord s.mem a w)).byteAt k = s.byteAt k :=
  State.byteAt_congr (Memory.lookup_storeWord_of_outside s.mem w h) rfl

/-! ### What an access reaches -/

theorem paramsOk_iff {bufCap posCap : Word} :
    paramsOk bufCap posCap = true ↔
      (1 ≤ bufCap.toNat ∧ bufCap.toNat ≤ 0xF000) ∧ 1 ≤ posCap.toNat ∧ posCap.toNat ≤ 0x0FFFF000 := by
  simp only [paramsOk, Bool.and_eq_true, decide_eq_true_eq, and_assoc]

/-- An access at an offset of the window reaches what stands at that offset (20_memory.md R60). -/
theorem State.locate_of_inWindow (s : State) {off : Nat} (h : off < 2 ^ 32) (size : Nat) :
    s.locate (s.blockBase + off) size = s.placeAt off size := by
  rw [State.locate, if_pos ⟨by omega, by omega⟩, Nat.add_sub_cancel_left]

/-- Outside the window stands nothing (log 11). -/
theorem State.locate_of_outside {s : State} {addr : Nat} (h : addr < s.blockBase ∨ s.blockBase + 2 ^ 32 ≤ addr)
    (size : Nat) : s.locate addr size = .fault .outsideWindow := by
  rw [State.locate, if_neg (by omega)]

/-- A one-byte access at the offset of a byte of BUF reaches it (20_memory.md R62). -/
theorem State.locate_buf {s : State} {i : Nat} (hparams : paramsOk s.bufCap s.posCap = true)
    (hi : i < s.bufCap.toNat) : s.locate (s.blockBase + bufAddr i) 1 = .next (.buf i) := by
  obtain ⟨⟨-, hbuf⟩, -⟩ := paramsOk_iff.1 hparams
  have haddr : bufAddr i = 0x1000 + i := rfl
  have hreg : regEnd = 0x4C := rfl
  have hend : s.bufEnd = 0x1000 + s.bufCap.toNat := rfl
  rw [State.locate_of_inWindow s (by omega), State.placeAt, if_neg (by omega), if_pos (by omega), if_neg (by omega),
    if_pos rfl, show bufAddr i - 0x1000 = i by omega]

/-- An aligned 32-bit access at the offset of a word of POS reaches it (20_memory.md R63). -/
theorem State.locate_pos {s : State} {j k : Nat} (hparams : paramsOk s.bufCap s.posCap = true)
    (hj : j < s.posCap.toNat) (hk : k < 4) : s.locate (s.blockBase + posAddr j k) 4 = .next (.pos j k) := by
  obtain ⟨⟨-, hbuf⟩, -, hpos⟩ := paramsOk_iff.1 hparams
  have haddr : posAddr j k = 0x10000 + 16 * j + 4 * k := rfl
  have hreg : regEnd = 0x4C := rfl
  have hbufEnd : s.bufEnd = 0x1000 + s.bufCap.toNat := rfl
  have hposEnd : s.posEnd = 0x10000 + 16 * s.posCap.toNat := rfl
  have haligned : alignedWord (posAddr j k) 4 = true := decide_eq_true (show posAddr j k % 4 = 0 by omega)
  rw [State.locate_of_inWindow s (by omega), State.placeAt, if_neg (by omega), if_neg (by omega), if_pos (by omega),
    if_neg (by omega), if_pos haligned, show (posAddr j k - 0x10000) / 16 = j by omega,
    show (posAddr j k - 0x10000) / 4 % 4 = k by omega]

/-- Within the window no access faults. -/
theorem State.placeAt_ne_fault (s : State) (off size : Nat) (f : Fault) : s.placeAt off size ≠ .fault f := by
  simp only [State.placeAt]
  repeat' split
  all_goals exact nofun

theorem Reg.offset_aligned (r : Reg) : r.offset ≤ 0x48 ∧ r.offset % 4 = 0 := by cases r <;> decide

/-- An access that is none of an aligned register word, one byte of BUF or an aligned word of POS is refused where it
stands (20_memory.md R64). -/
theorem State.placeAt_refused {s : State} {off size : Nat} (hreg : ¬ (off ≤ 0x48 ∧ off % 4 = 0 ∧ size = 4))
    (hbuf : ¬ (0x1000 ≤ off ∧ off < 0x1000 + s.bufCap.toNat ∧ size = 1))
    (hpos : ¬ (0x10000 ≤ off ∧ off < 0x10000 + 16 * s.posCap.toNat ∧ off % 4 = 0 ∧ size = 4)) :
    ∃ r, s.placeAt off size = .refused r := by
  rcases h : s.placeAt off size with p | f | r
  · obtain ⟨r, -, rfl, rfl⟩ | ⟨i, -, hi, rfl, rfl⟩ | ⟨j, k, -, hj, hk, rfl, rfl⟩ := State.placeAt_next h
    · exact absurd ⟨r.offset_aligned.1, r.offset_aligned.2, rfl⟩ hreg
    · have haddr : bufAddr i = 0x1000 + i := rfl
      exact absurd ⟨by omega, by omega, rfl⟩ hbuf
    · have haddr : posAddr j k = 0x10000 + 16 * j + 4 * k := rfl
      exact absurd ⟨by omega, by omega, by omega, rfl⟩ hpos
  · exact absurd h (s.placeAt_ne_fault off size f)
  · exact ⟨r, rfl⟩

/-! ### Steps of the host's program -/

section
variable {s : State} {rest : List HostOp} {addr size : Nat} (ht : s.turn = .host)
include ht

/-- A read of a place, while the block is not busy, answers the value there. -/
theorem step_of_placeRead {p : Place} (hl : s.locate addr size = .next p) (hb : s.busy = false)
    (ho : s.hostOps = .access (.read addr size) :: rest) :
    step s = .next ((s.popTurn.setHostOps rest).note (s.valueAt p)) := by
  rw [step_of_access ht ho, State.doAccess_read (s := s.popTurn.setHostOps rest) hl,
    State.readPlace_of_idle (s := s.popTurn.setHostOps rest) hb]
  cases p <;> rfl

/-- A write of a place, while the block is not busy, writes there. -/
theorem step_of_placeWrite {p : Place} {v : Word} (hl : s.locate addr size = .next p) (hb : s.busy = false)
    (ho : s.hostOps = .access (.write addr size v) :: rest) :
    step s = .next ((s.popTurn.setHostOps rest).writePlace v p) := by
  rw [step_of_access ht ho]
  exact State.doAccess_write (s := s.popTurn.setHostOps rest) hl hb v

/-- An access that is refused where it stands is a refused step, read or write. -/
theorem step_of_refused {r : Refusal} (v : Word) (hl : s.locate addr size = .refused r) :
    (s.hostOps = .access (.read addr size) :: rest → step s = .refused r) ∧
      (s.hostOps = .access (.write addr size v) :: rest → step s = .refused r) := by
  have hl' : (s.popTurn.setHostOps rest).locate addr size = .refused r := hl
  constructor <;> intro ho <;> rw [step_of_access ht ho, State.doAccess, hl']

/-- An access at which the model stops with a fault faults the step, read or write. -/
theorem step_of_fault {f : Fault} (v : Word) (hl : s.locate addr size = .fault f) :
    (s.hostOps = .access (.read addr size) :: rest → step s = .fault f) ∧
      (s.hostOps = .access (.write addr size v) :: rest → step s = .fault f) := by
  have hl' : (s.popTurn.setHostOps rest).locate addr size = .fault f := hl
  constructor <;> intro ho <;> rw [step_of_access ht ho, State.doAccess, hl']

end

end Sys2Proof.Machine
end

section
/-! The statements of 20_memory.md. -/

namespace Sys2Proof.Machine

/-- Settles O51, by what every step does to storage. -/
theorem memoryStaysCanonical : Obligations.MemoryStaysCanonical := by
  intro s t hwf h
  obtain ⟨-, hkeep, -⟩ := step_keepsStorage h
  exact hkeep hwf

/-- Settles O52, by what every step does to storage: a byte that `t` lists is new and in BUF or POS, or `s` lists it. -/
theorem storageStaysInBounds : Obligations.StorageStaysInBounds := by
  rintro s t ⟨hparams, hlen, hmem⟩ h
  obtain ⟨⟨hbuf, hpos, hbase⟩, -, hkeep⟩ := step_keepsStorage h
  obtain ⟨hlen', hmem'⟩ := hkeep hlen
  refine ⟨⟨by rwa [hbuf, hpos], hlen', fun c hc => ?_⟩, hbuf, hpos, hbase⟩
  simp only [State.inBuf, State.inPos, hbuf, hpos]
  exact (hmem' c hc).elim id (hmem c)

/-- Settles O36, register by register from what a read at a register's offset answers. -/
theorem registerReadsAnswer : Obligations.RegisterReadsAnswer := by
  intro s off rest ht hb ho answer hanswer
  have read : ∀ r : Reg, off = r.offset → step s = .next (answer (s.readReg r)) := by
    rintro r rfl
    rw [hanswer]
    exact step_of_regRead ht hb ho
  have half : s.readReg .half = if s.half = true then 1#32 else 0#32 := by
    simp only [State.readReg, State.halfWord]
    cases s.half <;> rfl
  exact ⟨read .status, read .xIn, read .yIn, read .zIn, read .packed, half ▸ read .half, read .xOut, read .yOut,
    read .zOut, read .bitOffset, read .numBits, read .bitval, read .count, read .bufLen, read .errValue, read .errIndex⟩

/-- Settles O37: a one-byte access at 0x1000 + i reaches BUF[i], and a store of one byte changes that byte alone. -/
theorem bufBytesReadAndWrite : Obligations.BufBytesReadAndWrite := by
  intro s i v rest ht hb hparams hi
  have hl := State.locate_buf hparams hi
  refine ⟨step_of_placeRead ht hl hb, fun ho => ⟨_, step_of_placeWrite ht hl hb ho, rfl, ?_, fun a ha => ?_⟩⟩
  · exact (State.byteAt_setMem_store _ _ _ _).trans (if_pos rfl)
  · exact (State.byteAt_setMem_store _ _ _ _).trans (if_neg ha)

/-- Settles O38: a 32-bit access at 0x10000 + 16 j + 4 k reaches word k of POS[j]; word 3 is not stored. -/
theorem posWordsReadAndWrite : Obligations.PosWordsReadAndWrite := by
  intro s j k v rest ht hb hparams hj
  have hl : k < 4 → s.locate (s.blockBase + posAddr j k) 4 = .next (.pos j k) := State.locate_pos hparams hj
  refine ⟨fun hk ho => ?_, fun hk ho => ?_, fun hk ho => ?_, fun hk ho => ?_⟩
  · rw [step_of_placeRead ht (hl (by omega)) hb ho, State.valueAt, if_neg (by omega)]
    rfl
  · have hstep := step_of_placeWrite ht (hl (by omega)) hb ho
    rw [State.writePlace, if_neg (by omega)] at hstep
    exact ⟨_, hstep, rfl, State.wordAt_setMem_storeWord _ _ _ _,
      fun a ha => State.byteAt_setMem_storeWord_of_outside (s.popTurn.setHostOps rest) v ha⟩
  · subst hk
    exact step_of_placeRead ht (hl (by omega)) hb ho
  · subst hk
    exact step_of_placeWrite ht (hl (by omega)) hb ho

/-- Settles O39: such an access reaches no place, and within the window nothing faults. -/
theorem inadmissibleAccessesAreRefused : Obligations.InadmissibleAccessesAreRefused := by
  intro s off size v rest ht _ hoff hreg hbuf hpos
  obtain ⟨r, hr⟩ := State.placeAt_refused hreg hbuf hpos
  obtain ⟨hread, hwrite⟩ := step_of_refused ht v ((s.locate_of_inWindow hoff size).trans hr)
  exact ⟨fun ho => ⟨r, hread ho⟩, fun ho => ⟨r, hwrite ho⟩⟩

/-- Settles O41: outside the window an access locates nothing. -/
theorem accessesOutsideTheWindowFault : Obligations.AccessesOutsideTheWindowFault := by
  intro s addr size v rest ht hout
  exact step_of_fault ht v (State.locate_of_outside hout size)

end Sys2Proof.Machine
end

section
/-! The decoder and the encoder of command words (30_encoding.md R80 to R83). -/

namespace Sys2Proof

/-- OP as a remainder (30_encoding.md R80). -/
theorem opField_eq (w : Word) : opField w = w.toNat % 16 := by
  simp [opField]

/-- MBZ as a quotient (30_encoding.md R80). -/
theorem mbzField_eq (w : Word) : mbzField w = w.toNat / 16 := by
  have := w.isLt
  simp only [mbzField, BitVec.extractLsb'_toNat, Nat.shiftRight_eq_div_pow]
  omega

/-- The word that encode gives decodes to the command. -/
@[simp] theorem decode_encode (i : Instr) : decode (encode i) = .ok i := by
  cases i <;> rfl

theorem ofOpcode_eq_ok_iff {op : Nat} {i : Instr} : ofOpcode op = .ok i ↔ op = (encode i).toNat := by
  constructor
  · intro h
    unfold ofOpcode at h
    split at h <;> cases h <;> rfl
  · rintro rfl
    cases i <;> rfl

/-- The number of a command's word is one of 1 to 8, and each of them is the number of one (30_encoding.md R81). -/
theorem exists_encode_toNat_iff {op : Nat} : (∃ i, op = (encode i).toNat) ↔ 1 ≤ op ∧ op ≤ 8 := by
  constructor
  · rintro ⟨i, rfl⟩
    cases i <;> decide
  · rintro ⟨h1, h8⟩
    interval_cases op
    exacts [⟨.pack32, rfl⟩, ⟨.unpack32, rfl⟩, ⟨.pack16h, rfl⟩, ⟨.unpack16h, rfl⟩, ⟨.wrbits, rfl⟩, ⟨.rdbits, rfl⟩,
      ⟨.packm, rfl⟩, ⟨.unpackm, rfl⟩]

/-- The opcode map rejects 0 and the values above 8 (30_encoding.md R83). -/
theorem ofOpcode_error_iff {op : Nat} : (∃ r, ofOpcode op = .error r) ↔ op = 0 ∨ 9 ≤ op := by
  have hok : (∃ i, ofOpcode op = .ok i) ↔ 1 ≤ op ∧ op ≤ 8 := by
    simp only [ofOpcode_eq_ok_iff, exists_encode_toNat_iff]
  rcases h : ofOpcode op with r | i
  · have hno : ¬ (1 ≤ op ∧ op ≤ 8) := by simpa [h] using hok
    exact iff_of_true ⟨r, rfl⟩ (by omega)
  · have hyes : 1 ≤ op ∧ op ≤ 8 := hok.1 ⟨i, h⟩
    exact iff_of_false nofun (by omega)

theorem decode_eq_ok_iff {w : Word} {i : Instr} :
    decode w = .ok i ↔ mbzField w = 0 ∧ ofOpcode (opField w) = .ok i := by
  by_cases h : mbzField w = 0 <;> simp [decode, h]

theorem decode_error_iff {w : Word} :
    (∃ r, decode w = .error r) ↔ mbzField w ≠ 0 ∨ ∃ r, ofOpcode (opField w) = .error r := by
  by_cases h : mbzField w = 0 <;> simp [decode, h]

/-- A word that decodes is the word of its command: its bits 31:4 are zero, so it is its OP. -/
theorem eq_encode_of_decode {w : Word} {i : Instr} (h : decode w = .ok i) : w = encode i := by
  obtain ⟨hmbz, hop⟩ := decode_eq_ok_iff.1 h
  rw [ofOpcode_eq_ok_iff, opField_eq] at hop
  rw [mbzField_eq] at hmbz
  exact BitVec.eq_of_toNat_eq (by omega)

end Sys2Proof
end

section
/-! What a command leaves: its end, the host's data, and the bytes that it does not store to. -/

namespace Sys2Proof.Machine

/-! ### The end of a command -/

/-- Every report that a command word can end in is an error (60_exceptions.md R201). -/
theorem Report.Raised.isError {r : Report} (h : r.Raised) : r.isError = true := by
  cases h <;> rfl

/-- All a command can do: the success of what it stages, or the report of an error (60_exceptions.md R200). -/
theorem exec_next {i : Instr} {s t : State} (h : exec i s = .next t) :
    (∃ u, s.effect i = .ok u ∧ t = u.succeed) ∨ ∃ r, s.effect i = .error r ∧ r.Raised ∧ t = s.complete r := by
  rw [exec_eq_finish, Host.Outcome.next.injEq] at h
  subst h
  rcases he : s.effect i with r | u
  · exact .inr ⟨r, rfl, State.effect_error_raised he, rfl⟩
  · exact .inl ⟨u, rfl, State.finish_ok s u⟩

/-- A command that ends without an error staged what it leaves. -/
theorem exec_next_of_noError {i : Instr} {s t : State} (h : exec i s = .next t) (herr : t.err = false) :
    ∃ u, s.effect i = .ok u ∧ t = u.succeed := by
  obtain hok | ⟨r, -, hr, rfl⟩ := exec_next h
  · exact hok
  · rw [State.complete_err, hr.isError] at herr
    cases herr

theorem exec_of_effect_ok {i : Instr} {s u : State} (h : s.effect i = .ok u) : exec i s = .next u.succeed := by
  rw [exec_eq_finish, h, State.finish_ok]

/-- A command leaves nothing pending (10_state.md R43). -/
theorem exec_pending {i : Instr} {s t : State} (h : exec i s = .next t) : t.pending = none := by
  obtain ⟨u, -, rfl⟩ | ⟨r, -, -, rfl⟩ := exec_next h <;> rfl

/-- A command leaves the host's program and the schedule alone (30_encoding.md R82). -/
theorem exec_host {i : Instr} {s t : State} (h : exec i s = .next t) :
    t.hostOps = s.hostOps ∧ t.schedule = s.schedule := by
  obtain ⟨u, hu, rfl⟩ | ⟨r, -, -, rfl⟩ := exec_next h
  · cases State.effect_ok_staged hu <;> exact ⟨rfl, rfl⟩
  · exact ⟨rfl, rfl⟩

/-! ### Memory -/

theorem State.byteAt_setMem_storeBytes_of_outside (s : State) {a k : Nat} {bs : List Byte}
    (h : ¬ (a ≤ k ∧ k < a + bs.length)) : (s.setMem (Memory.storeBytes s.mem a bs)).byteAt k = s.byteAt k :=
  State.byteAt_congr (by rw [State.setMem_mem, Memory.lookup_storeBytes, if_neg h]) rfl

theorem wrbitsEffect_byteAt {s u : State} {a : Nat} (h : wrbitsEffect s = .ok u) (ha : ¬ s.storesAt a .wrbits) :
    u.byteAt a = s.byteAt a := by
  obtain ⟨-, rfl⟩ := wrbitsEffect_ok h
  refine s.byteAt_setMem_storeBytes_of_outside fun hin => ha ?_
  rw [List.length_take] at hin
  simp only [State.storesAt]
  omega

theorem packmEffect_byteAt {s u : State} {a : Nat} (h : packmEffect s = .ok u) (ha : ¬ s.storesAt a .packm) :
    u.byteAt a = s.byteAt a := by
  obtain ⟨-, -, B, hB, rfl⟩ := packmEffect_ok h
  refine s.byteAt_setMem_storeBytes_of_outside fun hin => ha ?_
  rw [packMultiple_length hB, List.length_map, List.length_range] at hin
  simp only [State.storesAt, bufAddr] at hin ⊢
  omega

theorem unpackmEffect_byteAt {s u : State} {a : Nat} (h : unpackmEffect s = .ok u) (ha : ¬ s.storesAt a .unpackm) :
    u.byteAt a = s.byteAt a := by
  obtain ⟨-, -, rfl⟩ := unpackmEffect_ok h
  refine State.byteAt_congr (Memory.lookup_storePositions_of_outside s.mem 0 a _ fun i hi => ?_) rfl
  rw [unpackMultiple_length] at hi
  by_contra hin
  refine ha ⟨i, (a - posAddr i 0) / 4, hi, ?_⟩
  simp only [posAddr] at hin ⊢
  omega

/-- A command that succeeds leaves every byte alone that it does not store to: three commands store in memory, the
others do not. -/
theorem State.effect_byteAt {s u : State} {i : Instr} {a : Nat} (h : s.effect i = .ok u) (ha : ¬ s.storesAt a i) :
    u.byteAt a = s.byteAt a := by
  cases i with
  | wrbits => exact wrbitsEffect_byteAt h ha
  | packm => exact packmEffect_byteAt h ha
  | unpackm => exact unpackmEffect_byteAt h ha
  | pack32 | unpack32 | pack16h | unpack16h | rdbits =>
    cases State.effect_ok_staged h
    rfl

end Sys2Proof.Machine
end

section
/-! The bits that a bit read answers, and the entries that UNPACKM stores. -/

namespace Sys2Proof.Machine

/-! ### Bit reads -/

/-- The bits that one round of `readBits` takes from a byte (42_bit_buffer.md R141). -/
theorem readChunk_testBit (B : List Byte) {pos k : Nat} (hk : pos % 8 + k ≤ 8) (d : Nat) :
    ((byteOf B (pos / 8) >>> (pos % 8)) &&& ((1 <<< k) - 1)).testBit d = (decide (d < k) && bufBit B (pos + d)) := by
  rw [Nat.testBit_and, Nat.testBit_shiftRight, Nat.one_shiftLeft, Nat.testBit_two_pow_sub_one, Bool.and_comm]
  by_cases hd : d < k
  · rw [bufBit, show (pos + d) / 8 = pos / 8 by omega, show (pos + d) % 8 = pos % 8 + d by omega]
    rfl
  · simp [hd]

/-- `result` is the first `got` bits of the array from bit `o` on. -/
def HoldsBits (B : List Byte) (o got result : Nat) : Prop :=
  ∀ i, result.testBit i = (decide (i < got) && bufBit B (o + i))

theorem holdsBits_zero (B : List Byte) (o : Nat) : HoldsBits B o 0 0 := by simp [HoldsBits]

/-- One round of `readBits` adds the bits that it takes to those it has. -/
theorem HoldsBits.add_round {B : List Byte} {o got result k : Nat} (h : HoldsBits B o got result)
    (hk : (o + got) % 8 + k ≤ 8) :
    HoldsBits B o (got + k)
      (result ||| ((byteOf B ((o + got) / 8) >>> ((o + got) % 8)) &&& ((1 <<< k) - 1)) <<< got) := by
  intro i
  rw [Nat.testBit_or, Nat.testBit_shiftLeft, readChunk_testBit B hk, h i]
  by_cases hi : i < got
  · simp [hi, show ¬ got ≤ i by omega, show i < got + k by omega]
  · simp [hi, show got ≤ i by omega, show i - got < k ↔ i < got + k by omega, show o + got + (i - got) = o + i by omega]

/-- The loop of `readBits` goes on until it has `n` bits (42_bit_buffer.md R141). -/
theorem holdsBits_readLoop {B : List Byte} {o n fuel got result : Nat} (h : HoldsBits B o got result) (hgot : got ≤ n)
    (hfuel : n ≤ got + fuel) : HoldsBits B o n (readLoop fuel B n (o + got) got result) := by
  induction fuel generalizing got result with
  | zero => rwa [show n = got by omega]
  | succ fuel ih =>
    simp only [readLoop]
    split
    · rwa [show n = got by omega]
    · have hk : (o + got) % 8 + chunkWidth (o + got) (n - got) ≤ 8 ∧ 0 < chunkWidth (o + got) (n - got) ∧
          got + chunkWidth (o + got) (n - got) ≤ n := by
        simp only [chunkWidth]
        omega
      obtain ⟨hbyte, hpos, hle⟩ := hk
      rw [Nat.add_assoc]
      exact ih (h.add_round hbyte) hle (by omega)

/-- A bit read answers the `n` bits of the array from bit `o` on, and zeros above (42_bit_buffer.md R141). -/
theorem readBits_testBit (B : List Byte) (o n i : Nat) :
    (readBits B o n).testBit i = (decide (i < n) && bufBit B (o + i)) :=
  holdsBits_readLoop (holdsBits_zero B o) (Nat.zero_le n) (by omega) i

/-- A bit read depends on the bits that it reads only. -/
theorem readBits_congr {B B' : List Byte} {o n : Nat} (h : ∀ q, o ≤ q → q < o + n → bufBit B q = bufBit B' q) :
    readBits B o n = readBits B' o n := by
  refine Nat.eq_of_testBit_eq fun i => ?_
  rw [readBits_testBit, readBits_testBit]
  by_cases hi : i < n
  · rw [h (o + i) (by omega) (by omega)]
  · simp [hi]

/-- The bits of the bytes read from BUF are the bits of BUF (20_memory.md R65). -/
theorem State.bufBit_bufBytes (s : State) {len q : Nat} (h : q < 8 * len) :
    Machine.bufBit (s.bufBytes len) q = s.bufBit q := by
  simp [Machine.bufBit, State.bufBit, State.bufBytes, List.getD_eq_getElem?_getD, show q / 8 < len by omega]

/-! ### Words of POS -/

theorem State.wordAt_congr {s t : State} {a : Nat} (h : ∀ k, a ≤ k → k < a + 4 → s.byteAt k = t.byteAt k) :
    s.wordAt a = t.wordAt a := by
  simp only [State.wordAt, h a (by omega) (by omega), h (a + 1) (by omega) (by omega),
    h (a + 2) (by omega) (by omega), h (a + 3) (by omega) (by omega)]

/-- A store of a word leaves the words beside it alone. -/
theorem State.wordAt_setMem_storeWord_of_disjoint (s : State) (m : Memory) {a b : Nat} (w : Word)
    (h : b + 4 ≤ a ∨ a + 4 ≤ b) : (s.setMem (Memory.storeWord m a w)).wordAt b = (s.setMem m).wordAt b :=
  State.wordAt_congr fun k _ _ => State.byteAt_setMem_storeWord_of_outside (s.setMem m) w (by omega)

/-- Word `k` of an entry that holds the decoded position `c`: zext x, sext y, zext z (43_bulk_bitstream.md R164). -/
def Coord.word (c : Coord) : Nat → Word
  | 0 => zext32 c.x.toNat
  | 1 => u32 c.y
  | _ => zext32 c.z.toNat

/-- A position stored in an entry is read back from it. -/
theorem State.posWord_setMem_storePos (s : State) (m : Memory) (j : Nat) (c : Coord) {k : Nat} (hk : k < 3) :
    (s.setMem (Memory.storePos m j c)).posWord j k = c.word k := by
  simp only [State.posWord, Memory.storePos]
  match k with
  | 0 =>
    rw [s.wordAt_setMem_storeWord_of_disjoint _ _ (by simp only [posAddr]; omega),
      s.wordAt_setMem_storeWord_of_disjoint _ _ (by simp only [posAddr]; omega), s.wordAt_setMem_storeWord]
    rfl
  | 1 =>
    rw [s.wordAt_setMem_storeWord_of_disjoint _ _ (by simp only [posAddr]; omega), s.wordAt_setMem_storeWord]
    rfl
  | 2 => exact s.wordAt_setMem_storeWord _ _ _

/-- Positions stored in later entries leave an entry alone. -/
theorem State.posWord_setMem_storePositions_of_lt (s : State) (m : Memory) {i j : Nat} (cs : List Coord) (h : i < j)
    {k : Nat} (hk : k < 3) :
    (s.setMem (Memory.storePositions m j cs)).posWord i k = (s.setMem m).posWord i k := by
  refine State.wordAt_congr fun a _ ha => State.byteAt_congr ?_ rfl
  refine Memory.lookup_storePositions_of_outside m j a cs fun d _ => .inl ?_
  simp only [posAddr] at ha ⊢
  omega

/-- Positions stored in consecutive entries are read back from them. -/
theorem State.posWord_setMem_storePositions (s : State) (m : Memory) (j : Nat) (cs : List Coord) {i k : Nat}
    (hi : i < cs.length) (hk : k < 3) :
    (s.setMem (Memory.storePositions m j cs)).posWord (j + i) k = cs[i].word k := by
  induction cs generalizing m j i with
  | nil => cases hi
  | cons c cs ih =>
    cases i with
    | zero =>
      exact (s.posWord_setMem_storePositions_of_lt _ cs (Nat.lt_succ_self j) hk).trans
        (s.posWord_setMem_storePos m j c hk)
    | succ i =>
      rw [show j + (i + 1) = j + 1 + i by omega]
      exact ih _ (j + 1) (by simpa using hi)

/-! ### UNPACKM -/

/-- With room and bits for its positions UNPACKM stages their stores (43_bulk_bitstream.md R164). -/
theorem unpackmEffect_of_fits {s : State} (hpos : s.count.toNat ≤ s.posCap.toNat)
    (hlen : 17 * s.count.toNat ≤ 8 * s.bufLen.toNat) :
    unpackmEffect s =
      .ok (s.setMem
        (Memory.storePositions s.mem 0 (unpackMultiple (s.bufBytes s.bufLen.toNat) s.count.toNat))) := by
  simp only [unpackmEffect, if_neg (Nat.not_lt.2 hpos), if_neg (Nat.not_lt.2 hlen)]

/-- UNPACKM leaves in word `k` of POS[j] that of the position that it decodes from the 17 bits of entry `j`. -/
theorem unpackmEffect_posWord {s u : State} {j k : Nat} (h : unpackmEffect s = .ok u) (hj : j < s.count.toNat)
    (hk : k < 3) :
    u.posWord j k = (unpack32 (readBits (s.bufBytes s.bufLen.toNat) (17 * j) 17)).word k := by
  obtain ⟨-, -, rfl⟩ := unpackmEffect_ok h
  have hread := s.posWord_setMem_storePositions s.mem 0
    (unpackMultiple (s.bufBytes s.bufLen.toNat) s.count.toNat) (i := j) (by rwa [unpackMultiple_length]) hk
  simpa [unpackMultiple] using hread

end Sys2Proof.Machine
end

section
/-! Polls of `wait`, and the steps of a command's life where the schedule names no one. -/

namespace Sys2Proof.Machine

/-- A poll notes STATUS, busy or not, and the program goes on when the block is not busy (30_encoding.md R85). -/
theorem State.poll_eq (s : State) (rest : List HostOp) :
    s.poll rest = (s.note (.word s.statusWord)).setHostOps (if s.busy = true then s.hostOps else rest) := by
  have hread : s.readPlace (.reg .status) = s.note (.word s.statusWord) := if_neg fun h => h.2 rfl
  rw [State.poll, hread]
  split <;> rfl

theorem State.hostTurn_of_wait {s : State} {rest : List HostOp} (h : s.hostOps = .wait :: rest) :
    s.hostTurn = .next (s.poll rest) := by
  simp only [State.hostTurn, h]

section
variable {s : State} (hsched : s.schedule = [])
include hsched

theorem State.popTurn_of_noSchedule : s.popTurn = s := by
  rw [State.popTurn, hsched, List.tail_nil, ← hsched]

theorem State.turn_of_idle (hb : s.busy = false) : s.turn = .host := by
  simp [State.turn, hsched, hb]

theorem State.turn_of_busy (hb : s.busy = true) : s.turn = .block := by
  simp [State.turn, hsched, hb]

/-- A write of CMD latches the word (10_state.md R22). -/
theorem step_of_cmdWrite {rest : List HostOp} {v : Word} (hb : s.busy = false)
    (ho : s.hostOps = asmSwCmd s.blockBase v :: rest) :
    step s = .next { s with pending := some v, hostOps := rest } := by
  rw [step_of_regWrite (r := .cmd) (State.turn_of_idle hsched hb) hb ho, State.popTurn_of_noSchedule hsched]
  rfl

/-- The word latched last is the next to run (10_state.md R43; log 6). -/
theorem step_of_pending {w : Word} {i : Instr} (hp : s.pending = some w) (hd : decode w = .ok i) :
    step s = exec i s := by
  have hb : s.busy = true := by rw [State.busy, hp]; rfl
  rw [step_of_block (State.turn_of_busy hsched hb), State.popTurn_of_noSchedule hsched,
    State.blockTurn_of_command hp hd]

/-- A poll of a block that is not busy ends the wait (30_encoding.md R85). -/
theorem step_of_wait {rest : List HostOp} (hb : s.busy = false) (ho : s.hostOps = .wait :: rest) :
    step s = .next { s with hostOps := rest, noted := .word s.statusWord :: s.noted } := by
  rw [step_of_host (State.turn_of_idle hsched hb), State.popTurn_of_noSchedule hsched, State.hostTurn_of_wait ho,
    State.poll_eq, if_neg (by simp [hb])]
  rfl

/-- A command that is pending while the host waits runs, and the next poll ends the wait. -/
theorem run_of_pending_of_wait {i : Instr} {rest : List HostOp} (hp : s.pending = some (encode i))
    (ho : s.hostOps = .wait :: rest) :
    ∃ t, exec i s = .next t ∧
      Host.Core.run core 2 s = .next { t with hostOps := rest, noted := .word t.statusWord :: t.noted } := by
  have hrun := exec_eq_finish i s
  obtain ⟨hops, hsch⟩ := exec_host hrun
  have hidle : (s.finish (s.effect i)).busy = false := by rw [State.busy, exec_pending hrun]; rfl
  have hexec := step_of_pending hsched hp (decode_encode i)
  have hpoll := step_of_wait (hsch.trans hsched) hidle (hops.trans ho)
  exact ⟨_, hrun, by rw [run_succ_of_next 1 (hexec.trans hrun), run_succ_of_next 0 hpoll]; rfl⟩

end

end Sys2Proof.Machine
end

section
/-! The statements of 30_encoding.md. -/

namespace Sys2Proof.Machine

/-- Settles O1: a word that decodes has zero bits 31:4, so it is its OP, and the opcode map inverts encode on OP. -/
theorem decodeInvertsEncode : Obligations.DecodeInvertsEncode := by
  refine ⟨fun w i => ⟨eq_encode_of_decode, ?_⟩, fun w => ?_⟩
  · rintro rfl
    exact decode_encode i
  · rw [decode_error_iff, ofOpcode_error_iff, ← BitVec.toNat_ne_iff_ne]
    rfl

/-- Settles O2: the eight words are those of encode; the six others are rejected by computation. -/
theorem opcodeMapWordsDecode : Obligations.OpcodeMapWordsDecode :=
  ⟨⟨decode_encode .pack32, decode_encode .unpack32, decode_encode .pack16h, decode_encode .unpack16h,
    decode_encode .wrbits, decode_encode .rdbits, decode_encode .packm, decode_encode .unpackm⟩,
    rfl, rfl, rfl, rfl, rfl, rfl⟩

/-- Settles O28: a raise changes the report only, and a command stages the registers that R82 gives it. -/
theorem commandRegisterFrame : Obligations.CommandRegisterFrame := by
  intro i s t h
  obtain ⟨u, hu, rfl⟩ | ⟨r, -, -, rfl⟩ := exec_next h
  · cases State.effect_ok_staged hu <;> simp
  · simp

/-- Settles O29: a raise changes no memory, and a command that succeeds stores where R82 says. -/
theorem commandMemoryFrame : Obligations.CommandMemoryFrame := by
  intro i s t a h ha
  obtain ⟨u, hu, rfl⟩ | ⟨r, -, -, rfl⟩ := exec_next h
  · exact (State.effect_byteAt hu ha : u.byteAt a = s.byteAt a)
  · rfl

/-- Settles O26: each word is decoded from the 17 bits of its entry, which are among the first 17 N. -/
theorem unpackmReadsOnlyItsEntries : Obligations.UnpackmReadsOnlyItsEntries := by
  intro s t m h herr hbits
  obtain ⟨u, hu, rfl⟩ := exec_next_of_noError h herr
  obtain ⟨hpos, hlen, -⟩ := unpackmEffect_ok hu
  have hv := unpackmEffect_of_fits (s := s.setMem m) hpos hlen
  refine ⟨_, exec_of_effect_ok (i := .unpackm) hv, rfl, fun j k hj hk => ?_⟩
  have hentry : readBits ((s.setMem m).bufBytes s.bufLen.toNat) (17 * j) 17 =
      readBits (s.bufBytes s.bufLen.toNat) (17 * j) 17 := by
    refine readBits_congr fun q _ hq => ?_
    rw [State.bufBit_bufBytes _ (by omega), State.bufBit_bufBytes _ (by omega)]
    exact hbits q (by omega)
  calc _ = (unpack32 (readBits ((s.setMem m).bufBytes s.bufLen.toNat) (17 * j) 17)).word k :=
        unpackmEffect_posWord (s := s.setMem m) hv hj hk
    _ = (unpack32 (readBits (s.bufBytes s.bufLen.toNat) (17 * j) 17)).word k := by rw [hentry]
    _ = _ := (unpackmEffect_posWord hu hj hk).symm

/-- Settles O47: a poll notes STATUS, which BUSY does not hide. -/
theorem waitPollsStatus : Obligations.WaitPollsStatus := by
  intro s rest ht ho
  rw [step_of_host ht, State.hostTurn_of_wait (s := s.popTurn) ho, State.poll_eq, State.popTurn_hostOps, ho]
  rfl

/-- Settles O46, step by step: the write of CMD latches the word, the block runs it, the poll ends the wait. -/
theorem commandLifeCycle : Obligations.CommandLifeCycle := by
  intro s i rest hb hsched ho
  rw [run_succ_of_next 2 (step_of_cmdWrite hsched hb ho)]
  exact run_of_pending_of_wait (s := { s with pending := some (encode i), hostOps := .wait :: rest }) hsched rfl rfl

end Sys2Proof.Machine
end

section
/-! The encoders and the single-integer decoder on positions, and the end of the commands that wrap them
(40_single_int_codec.md, 41_half_split_codec.md R120). -/

namespace Sys2Proof.Machine

/-! ### Packed fields -/

/-- Each field of a packed word is found where it was put. -/
theorem packFields_digits {x z : Int} (hx : 0 ≤ x ∧ x ≤ 15) (hz : 0 ≤ z ∧ z ≤ 15) (f : Int) :
    packFields x z f % 16 = x.toNat ∧ packFields x z f / 16 % 16 = z.toNat ∧ packFields x z f / 256 = f.toNat := by
  rw [packFields_eq_sum hx hz]
  omega

/-! ### The encoders -/

theorem pack32_of_valid {c : Coord} (h : c.valid) (i : Nat) : pack32 c i = .ok (packFields c.x c.z (c.y + 64)) := by
  simp only [pack32, checkRange_of_valid h]

theorem pack32_of_firstBad {c : Coord} {f : FieldCode} {v : Int} (h : c.firstBad = some (f, v)) (i : Nat) :
    pack32 c i = .error (.range f v i) := by
  simp only [pack32, checkRange_of_firstBad h]

/-- The valid positions are those that pack32 encodes. -/
theorem pack32_eq_ok_iff {c : Coord} {i p : Nat} :
    pack32 c i = .ok p ↔ c.valid ∧ packFields c.x c.z (c.y + 64) = p := by
  rcases hb : c.firstBad with _ | ⟨f, v⟩
  · have hv : c.valid := (Coord.firstBad_eq_none_iff c).1 hb
    rw [pack32_of_valid hv, Except.ok.injEq, and_iff_right hv]
  · have hv : ¬ c.valid := fun hv => by simp [(Coord.firstBad_eq_none_iff c).2 hv] at hb
    rw [pack32_of_firstBad hb]
    exact iff_of_false nofun fun h => hv h.1

/-- The in-half offset of a valid position is below 192, so the guard of R120 never raises (92_eei_decisions.md D35). -/
theorem halfOffset_bounds {y : Int} (h : -64 ≤ y ∧ y ≤ 319) : 0 ≤ halfOffset y ∧ halfOffset y ≤ 191 := by
  simp only [halfOffset, upperHalf, decide_eq_true_eq]
  split <;> omega

theorem packHalf_of_valid {c : Coord} (h : c.valid) :
    packHalf c = .ok (upperHalf c.y, packFields c.x c.z (halfOffset c.y)) := by
  have ⟨_, _, hy⟩ := h
  have hle := halfOffset_bounds hy
  have hoff : 0 ≤ halfOffset c.y ∧ halfOffset c.y ≤ 255 := by omega
  simp only [packHalf, checkRange_of_valid h, hoff, and_self, not_true_eq_false, if_false]

/-- What packHalf encodes has 16 bits (41_half_split_codec.md R120). -/
theorem packFields_halfOffset_lt {c : Coord} (h : c.valid) : packFields c.x c.z (halfOffset c.y) < 2 ^ 16 := by
  obtain ⟨hx, hz, hy⟩ := h
  have hoff := halfOffset_bounds hy
  rw [packFields_eq_sum hx hz]
  omega

/-! ### Decoding what was encoded -/

/-- 40_single_int_codec.md R105 item 1. -/
theorem unpack32_packFields {c : Coord} (h : c.valid) : unpack32 (packFields c.x c.z (c.y + 64)) = c := by
  obtain ⟨hx, hz, hy⟩ := h
  obtain ⟨dx, dz, dy⟩ := packFields_digits hx hz (c.y + 64)
  rw [unpack32_eq, dx, dz, dy, Coord.mk.injEq]
  omega

/-- 41_half_split_codec.md R124 item 1. -/
theorem unpackHalf_packFields {c : Coord} (h : c.valid) :
    unpackHalf (packFields c.x c.z (halfOffset c.y)) (upperHalf c.y) = c := by
  obtain ⟨hx, hz, hy⟩ := h
  have hoff := halfOffset_bounds hy
  obtain ⟨dx, dz, dy⟩ := packFields_digits hx hz (halfOffset c.y)
  rw [unpackHalf_eq, dx, dz, dy, Coord.mk.injEq]
  simp only [halfOffset, upperHalf, decide_eq_true_eq] at hoff ⊢
  split <;> omega

/-! ### Encoding what was decoded -/

/-- The decoder reads no bit above bit 16 (40_single_int_codec.md R102). -/
theorem unpack32_congr {p q : Nat} (h : p % 2 ^ 17 = q % 2 ^ 17) : unpack32 p = unpack32 q := by
  rw [unpack32_eq, unpack32_eq, Coord.mk.injEq]
  omega

theorem unpack32_valid_iff {p : Nat} : (unpack32 p).valid ↔ p / 256 % 512 ≤ 383 := by
  rw [unpack32_eq]
  simp only [Coord.valid]
  omega

/-- 40_single_int_codec.md R105 item 2, where the field of y is one that the encoder makes. -/
theorem pack32_unpack32 {p : Nat} (h : p / 256 % 512 ≤ 383) (i : Nat) :
    pack32 (unpack32 p) i = .ok (p % 2 ^ 17) := by
  have hv : (unpack32 p).valid := unpack32_valid_iff.2 h
  have ⟨hx, hz, _⟩ := hv
  rw [pack32_of_valid hv, packFields_eq_sum hx hz, unpack32_eq, Except.ok.injEq]
  dsimp only
  omega

/-- A field of y beyond the encoder's decodes to a y that is out of range. -/
theorem unpack32_firstBad {p : Nat} (h : 384 ≤ p / 256 % 512) :
    (unpack32 p).firstBad = some (.y, ((p / 256 % 512 : Nat) : Int) - 64) := by
  rw [unpack32_eq]
  simp only [Coord.firstBad]
  rw [if_neg (by omega), if_neg (by omega), if_pos (by omega)]

/-- What pack32 encodes has 17 bits and a field of y of at most 383 (40_single_int_codec.md R101). -/
theorem pack32_ok_bounds {c : Coord} {i v : Nat} (h : pack32 c i = .ok v) : v < 2 ^ 17 ∧ v / 256 % 512 ≤ 383 := by
  obtain ⟨⟨hx, hz, hy⟩, rfl⟩ := pack32_eq_ok_iff.1 h
  rw [packFields_eq_sum hx hz]
  omega

/-! ### The commands -/

/-- A command that raises leaves nothing but the report of the error (60_exceptions.md R209). -/
theorem exec_of_effect_error {i : Instr} {s : State} {r : Report} (h : s.effect i = .error r) :
    exec i s = .next (s.fail r.cause r.field r.value r.index) := by
  have hr : r.cause ≠ .none := of_decide_eq_true (State.effect_error_raised h).isError
  rw [exec_eq_finish, h, State.finish_error, State.complete_error s hr]

theorem exec_pack32_of_valid {s : State} (h : s.inputCoord.valid) :
    exec .pack32 s =
      .next (s.setPacked (zext32 (packFields s.inputCoord.x s.inputCoord.z (s.inputCoord.y + 64)))).succeed :=
  exec_of_effect_ok (i := .pack32) (by simp only [State.effect, pack32Effect, pack32_of_valid h])

theorem exec_pack32_of_firstBad {s : State} {f : FieldCode} {v : Int} (h : s.inputCoord.firstBad = some (f, v)) :
    exec .pack32 s = .next (s.fail .range f (u32 v) 0#32) :=
  exec_of_effect_error (i := .pack32) (r := .range f v 0) (by
    simp only [State.effect, pack32Effect, pack32_of_firstBad h])

theorem exec_unpack32 (s : State) : exec .unpack32 s = .next (s.setOut (unpack32 s.packed.toNat)).succeed :=
  exec_of_effect_ok rfl

theorem exec_pack16h_of_valid {s : State} (h : s.inputCoord.valid) :
    exec .pack16h s =
      .next ((s.setPacked (zext32 (packFields s.inputCoord.x s.inputCoord.z (halfOffset s.inputCoord.y)))).setHalf
        (upperHalf s.inputCoord.y)).succeed :=
  exec_of_effect_ok (i := .pack16h) (by simp only [State.effect, pack16hEffect, packHalf_of_valid h])

theorem exec_unpack16h (s : State) :
    exec .unpack16h s = .next (s.setOut (unpackHalf (s.packed.extractLsb' 0 16).toNat s.half)).succeed :=
  exec_of_effect_ok rfl

/-! ### Decoding right after encoding -/

theorem zext32_toNat_of_lt {v : Nat} (h : v < 2 ^ 32) : (zext32 v).toNat = v := by
  rw [zext32, BitVec.toNat_ofNat, Nat.mod_eq_of_lt h]

/-- UNPACK32 of what PACK32 leaves in PACKED decodes the position that was encoded. -/
theorem exec_unpack32_of_packed {s : State} {c : Coord} (h : c.valid)
    (hp : s.packed = zext32 (packFields c.x c.z (c.y + 64))) : exec .unpack32 s = .next (s.setOut c).succeed := by
  have hlt : packFields c.x c.z (c.y + 64) < 2 ^ 17 := (pack32_ok_bounds (pack32_of_valid h 0)).1
  rw [exec_unpack32, hp, zext32_toNat_of_lt (by omega), unpack32_packFields h]

/-- UNPACK16H of what PACK16H leaves in PACKED and HALF decodes the position that was encoded. -/
theorem exec_unpack16h_of_packed {s : State} {c : Coord} (h : c.valid)
    (hp : s.packed = zext32 (packFields c.x c.z (halfOffset c.y))) (hh : s.half = upperHalf c.y) :
    exec .unpack16h s = .next (s.setOut c).succeed := by
  have hlt := packFields_halfOffset_lt h
  have hlow : (s.packed.extractLsb' 0 16).toNat = packFields c.x c.z (halfOffset c.y) := by
    rw [BitVec.extractLsb'_toNat, Nat.shiftRight_zero, hp, zext32_toNat_of_lt (by omega), Nat.mod_eq_of_lt hlt]
  rw [exec_unpack16h, hlow, hh, unpackHalf_packFields h]

/-- A word that reads as a non-negative number is that number widened (00_scope.md R10). -/
theorem zext32_toNat_s32 {w : Word} (h : 0 ≤ s32 w) : zext32 (s32 w).toNat = w := by
  rw [zext32, ← BitVec.ofInt_natCast, Int.toNat_of_nonneg h]
  exact u32_s32 w

/-- A command that succeeds with a valid input position as its output leaves the input words there. -/
theorem State.setOut_inputCoord {s t : State} (h : s.inputCoord.valid) :
    (t.setOut s.inputCoord).succeed.xOut = s.xIn ∧ (t.setOut s.inputCoord).succeed.yOut = s.yIn ∧
      (t.setOut s.inputCoord).succeed.zOut = s.zIn :=
  have ⟨⟨hx, _⟩, ⟨hz, _⟩, _⟩ := h
  ⟨zext32_toNat_s32 hx, u32_s32 s.yIn, zext32_toNat_s32 hz⟩

end Sys2Proof.Machine
end

section
/-! The statements of 40_single_int_codec.md. -/

namespace Sys2Proof.Machine

/-- Settles O6: on a valid position the OR of the fields is their sum, else the first bad field is reported. -/
theorem pack32Command : Obligations.Pack32Command := by
  refine ⟨decode_encode .pack32, fun s => ⟨fun h => ?_, fun f v h => exec_pack32_of_firstBad h⟩⟩
  have ⟨hx, hz, _⟩ := h
  rw [exec_pack32_of_valid h, packFields_eq_sum hx hz]
  rfl

/-- Settles O7: the fields of the decoder are remainders of PACKED. -/
theorem unpack32Command : Obligations.Unpack32Command := by
  refine ⟨decode_encode .unpack32, fun s => ?_⟩
  rw [exec_unpack32, unpack32_eq]
  rfl

/-- Settles O8: the decoder depends on PACKED modulo 2^17. -/
theorem unpack32IgnoresHighBits : Obligations.Unpack32IgnoresHighBits := by
  intro s t p hp h
  have hmod : p.toNat % 2 ^ 17 = s.packed.toNat % 2 ^ 17 := by simpa using congrArg BitVec.toNat hp
  rw [exec_unpack32] at h ⊢
  cases h
  rw [unpack32_congr hmod]
  rfl

/-- Settles O9: decoding undoes encoding, which gives the round trip and injectivity; encoding undoes decoding up to the field
383 of y, which with the bounds on encoded words gives the image. -/
theorem singleIntegerCodecLaws : Obligations.SingleIntegerCodecLaws := by
  refine ⟨fun c i h => ⟨_, pack32_of_valid h i, unpack32_packFields h⟩,
    fun p i _ => ⟨fun h => pack32_unpack32 h i, fun h => pack32_of_firstBad (unpack32_firstBad h) i⟩,
    fun c d p hc hd => ?_, fun v => ⟨fun ⟨_, h⟩ => pack32_ok_bounds h, fun ⟨hlt, hy⟩ => ?_⟩, unpack32_decoded⟩
  · obtain ⟨hcv, hcp⟩ := pack32_eq_ok_iff.1 hc
    obtain ⟨hdv, hdp⟩ := pack32_eq_ok_iff.1 hd
    rw [← unpack32_packFields hcv, hcp, ← hdp, unpack32_packFields hdv]
  · exact ⟨unpack32 v, by rw [pack32_unpack32 hy, Nat.mod_eq_of_lt hlt]⟩

/-- Settles O13: the encoders' results fit in what the decoders read, the decoders undo the encoders, and a valid position in
the output registers is the input words. -/
theorem encodeThenDecodeRestores : Obligations.EncodeThenDecodeRestores := by
  intro s h
  exact ⟨⟨_, _, exec_pack32_of_valid h, exec_unpack32_of_packed h rfl, State.setOut_inputCoord h⟩,
    ⟨_, _, exec_pack16h_of_valid h, exec_unpack16h_of_packed h rfl rfl, State.setOut_inputCoord h⟩⟩

end Sys2Proof.Machine
end

section
/-! What the half-split encoder answers, half by half, and how its word relates to the 32-bit form (41_half_split_codec.md). -/

namespace Sys2Proof.Machine

/-! ### The two halves -/

theorem upperHalf_of_lt {y : Int} (h : y < 128) : upperHalf y = false := decide_eq_false (not_le.2 h)

theorem upperHalf_of_le {y : Int} (h : 128 ≤ y) : upperHalf y = true := decide_eq_true h

/-- The in-half offset with the tie-break of R120 written out. -/
theorem halfOffset_eq_ite (y : Int) : halfOffset y = if 128 ≤ y then y - 128 else y + 64 := by
  simp only [halfOffset, upperHalf, decide_eq_true_eq]

theorem halfOffset_of_lt {y : Int} (h : y < 128) : halfOffset y = y + 64 := by
  rw [halfOffset_eq_ite, if_neg (not_le.2 h)]

theorem halfOffset_of_le {y : Int} (h : 128 ≤ y) : halfOffset y = y - 128 := by
  rw [halfOffset_eq_ite, if_pos h]

/-! ### The encoder -/

theorem packHalf_of_firstBad {c : Coord} {f : FieldCode} {v : Int} (h : c.firstBad = some (f, v)) :
    packHalf c = .error (.range f v 0) := by
  simp only [packHalf, checkRange_of_firstBad h]

/-- The valid positions are those that packHalf encodes. -/
theorem packHalf_eq_ok_iff {c : Coord} {upper : Bool} {p : Nat} :
    packHalf c = .ok (upper, p) ↔
      c.valid ∧ upperHalf c.y = upper ∧ packFields c.x c.z (halfOffset c.y) = p := by
  rcases hb : c.firstBad with _ | ⟨f, v⟩
  · have hv : c.valid := (Coord.firstBad_eq_none_iff c).1 hb
    rw [packHalf_of_valid hv, Except.ok.injEq, Prod.mk.injEq, and_iff_right hv]
  · have hv : ¬ c.valid := fun hv => by simp [(Coord.firstBad_eq_none_iff c).2 hv] at hb
    rw [packHalf_of_firstBad hb]
    exact iff_of_false nofun fun h => hv h.1

/-- The in-half field that the encoder makes is at most 191 (41_half_split_codec.md R124 item 3). -/
theorem packHalf_ok_field_le {c : Coord} {upper : Bool} {p : Nat} (h : packHalf c = .ok (upper, p)) :
    p / 256 ≤ 191 := by
  obtain ⟨⟨hx, hz, hy⟩, -, rfl⟩ := packHalf_eq_ok_iff.1 h
  obtain ⟨-, -, hfield⟩ := packFields_digits hx hz (halfOffset c.y)
  have hoff := halfOffset_bounds hy
  omega

/-- Bits 15 and 14 are the two top bits of the in-half field, which are both set from 192 on only. -/
theorem not_testBit_15_and_14 {p : Nat} (h : p / 256 ≤ 191) : ¬ (p.testBit 15 = true ∧ p.testBit 14 = true) := by
  simp only [Nat.testBit_eq_decide_div_mod_eq, decide_eq_true_eq]
  omega

/-- Every in-half field up to 191 is one that the encoder makes, in the lower half already. -/
theorem exists_packHalf_of_field {f : Nat} (h : f ≤ 191) :
    ∃ c upper p, packHalf c = .ok (upper, p) ∧ p / 256 = f := by
  have hv : Coord.valid ⟨0, (f : Int) - 64, 0⟩ := by simp only [Coord.valid]; omega
  have hoff : halfOffset ((f : Int) - 64) = f := by rw [halfOffset_of_lt (by omega)]; omega
  have hdigit := (packFields_digits (x := 0) (z := 0) (by decide) (by decide) f).2.2
  exact ⟨_, _, _, packHalf_of_valid hv, by rw [hoff, hdigit, Int.toNat_natCast]⟩

/-! ### The relation with the 32-bit form -/

theorem packHalf_of_lower {c : Coord} (h : c.valid) (hy : c.y < 128) :
    packHalf c = .ok (false, packFields c.x c.z (c.y + 64)) := by
  rw [packHalf_of_valid h, upperHalf_of_lt hy, halfOffset_of_lt hy]

/-- In the upper half the field of y is 192 less than in the 32-bit form, so the word is 0xC000 less. -/
theorem packFields_of_upper {c : Coord} (h : c.valid) (hy : 128 ≤ c.y) :
    packFields c.x c.z (c.y + 64) = packFields c.x c.z (c.y - 128) + 0xC000 := by
  obtain ⟨hx, hz, -⟩ := h
  rw [packFields_eq_sum hx hz, packFields_eq_sum hx hz]
  omega

theorem packHalf_of_upper {c : Coord} (h : c.valid) (hy : 128 ≤ c.y) :
    packHalf c = .ok (true, packFields c.x c.z (c.y + 64) - 0xC000) := by
  rw [packHalf_of_valid h, upperHalf_of_le hy, halfOffset_of_le hy, packFields_of_upper h hy, Nat.add_sub_cancel]

/-! ### The commands -/

theorem exec_pack16h_of_firstBad {s : State} {f : FieldCode} {v : Int} (h : s.inputCoord.firstBad = some (f, v)) :
    exec .pack16h s = .next (s.fail .range f (u32 v) 0#32) :=
  exec_of_effect_error (i := .pack16h) (r := .range f v 0) (by
    simp only [State.effect, pack16hEffect, packHalf_of_firstBad h])

/-- The decoder reads no bit above bit 15 (41_half_split_codec.md R121). -/
theorem unpackHalf_congr {p q : Nat} (h : p % 2 ^ 16 = q % 2 ^ 16) (upper : Bool) :
    unpackHalf p upper = unpackHalf q upper := by
  rw [unpackHalf_eq, unpackHalf_eq, Coord.mk.injEq]
  omega

/-- Taking PACKED[15:0] drops only bits that the decoder does not read (92_eei_decisions.md D28). -/
theorem unpackHalf_low16 (w : Word) (upper : Bool) :
    unpackHalf (w.extractLsb' 0 16).toNat upper = unpackHalf w.toNat upper :=
  unpackHalf_congr (by rw [BitVec.extractLsb'_toNat, Nat.shiftRight_zero, Nat.mod_mod]) upper

end Sys2Proof.Machine
end

section
/-! The statements of 41_half_split_codec.md. -/

namespace Sys2Proof.Machine

/-- Settles O10: on a valid position the OR of the fields is their sum, with the offset within the half that the tie-break
gives; else the first bad field is reported. -/
theorem pack16hCommand : Obligations.Pack16hCommand := by
  refine ⟨decode_encode .pack16h, fun s => ⟨fun h => ?_, fun f v h => exec_pack16h_of_firstBad h⟩⟩
  have ⟨hx, hz, _⟩ := h
  rw [exec_pack16h_of_valid h, packFields_eq_sum hx hz, halfOffset_eq_ite]
  rfl

/-- Settles O11: the decoder's fields are remainders of PACKED, whose bits 31:16 it does not read. -/
theorem unpack16hCommand : Obligations.Unpack16hCommand := by
  refine ⟨decode_encode .unpack16h, fun s => ?_⟩
  rw [exec_unpack16h, unpackHalf_low16, unpackHalf_eq]
  rfl

/-- Settles O12: decoding undoes encoding, the in-half field of an encoded word is at most 191 and takes every such value, and
the two encoders' words differ by 0xC000 in the upper half only. -/
theorem halfSplitCodecLaws : Obligations.HalfSplitCodecLaws := by
  refine ⟨fun c hv => ⟨_, _, packHalf_of_valid hv, unpackHalf_packFields hv⟩, fun c upper p h => ?_,
    fun c upper p h => ⟨packHalf_ok_field_le h, not_testBit_15_and_14 (packHalf_ok_field_le h)⟩,
    fun f hf => exists_packHalf_of_field hf,
    fun c hv => ⟨_, pack32_of_valid hv 0, packHalf_of_lower hv, fun hy => ⟨?_, packHalf_of_upper hv hy⟩⟩⟩
  · obtain ⟨-, rfl, -⟩ := packHalf_eq_ok_iff.1 h
    exact ⟨fun hy => upperHalf_of_lt (by omega), fun hy => upperHalf_of_le (by omega)⟩
  · rw [packFields_of_upper hv hy]
    exact Nat.le_add_left ..

end Sys2Proof.Machine
end

section
/-! The bits and bytes that a bit write leaves, and the laws of bit writes and bit reads (42_bit_buffer.md). -/

namespace Sys2Proof.Machine

/-! ### Byte arrays bit by bit -/

theorem bufBit_set (B : List Byte) {i : Nat} (hi : i < B.length) (b : Byte) (q : Nat) :
    bufBit (B.set i b) q = if q / 8 = i then b.getLsbD (q % 8) else bufBit B q := by
  simp only [bufBit, List.getD_eq_getElem?_getD, List.getElem?_set, eq_comm (a := i)]
  by_cases hq : q / 8 = i
  · rw [if_pos hq, if_pos hq, if_pos hi, Option.getD_some]
  · rw [if_neg hq, if_neg hq]

/-- Arrays of one length hold the same byte where they hold the same eight bits. -/
theorem getElem?_eq_of_bufBit_eq {B C : List Byte} (hlen : B.length = C.length) {i : Nat}
    (h : ∀ j < 8, bufBit B (8 * i + j) = bufBit C (8 * i + j)) : B[i]? = C[i]? := by
  by_cases hi : i < B.length
  · rw [List.getElem?_eq_getElem hi, List.getElem?_eq_getElem (hlen ▸ hi), Option.some.injEq]
    refine BitVec.eq_of_getLsbD_eq fun j hj => ?_
    have hbit := h j hj
    simpa only [bufBit, show (8 * i + j) / 8 = i by omega, show (8 * i + j) % 8 = j by omega,
      List.getD_eq_getElem _ _ hi, List.getD_eq_getElem _ _ (hlen ▸ hi)] using hbit
  · rw [List.getElem?_eq_none (by omega), List.getElem?_eq_none (by omega)]

/-- Arrays of one length are equal where they hold the same bits. -/
theorem eq_of_bufBit_eq {B C : List Byte} (hlen : B.length = C.length) (h : ∀ q, bufBit B q = bufBit C q) : B = C :=
  List.ext_getElem? fun _ => getElem?_eq_of_bufBit_eq hlen fun _ _ => h _

/-! ### Bit writes -/

/-- A round takes at least one bit, not more than are left, and none beyond its byte (42_bit_buffer.md R140). -/
theorem chunkWidth_bounds {remaining : Nat} (h : remaining ≠ 0) (pos : Nat) :
    0 < chunkWidth pos remaining ∧ chunkWidth pos remaining ≤ remaining ∧ pos % 8 + chunkWidth pos remaining ≤ 8 := by
  simp only [chunkWidth]
  omega

/-- One round of `writeBits` writes its bits and no other. -/
theorem bufBit_writeRound {B : List Byte} {pos k : Nat} (hk : pos % 8 + k ≤ 8) (hpos : pos / 8 < B.length)
    (val q : Nat) :
    bufBit (B.set (pos / 8) (mergeByte (byteOf B (pos / 8)) (pos % 8) k val)) q =
      if pos ≤ q ∧ q < pos + k then val.testBit (q - pos) else bufBit B q := by
  rw [bufBit_set B hpos, mergeByte_getLsbD val hk (Nat.mod_lt q (by decide))]
  by_cases hbyte : q / 8 = pos / 8
  · rw [if_pos hbyte, ← hbyte, show q % 8 - pos % 8 = q - pos by omega]
    exact if_congr (by omega) rfl rfl
  · rw [if_neg hbyte, if_neg (by omega)]

/-- The loop of `writeBits` goes on until it has written every bit that is left (42_bit_buffer.md R140). -/
theorem bufBit_writeLoop {fuel : Nat} {B : List Byte} {pos remaining : Nat} (hfuel : remaining ≤ fuel)
    (hfit : pos + remaining ≤ 8 * B.length) (val q : Nat) :
    bufBit (writeLoop fuel B pos val remaining) q =
      if pos ≤ q ∧ q < pos + remaining then val.testBit (q - pos) else bufBit B q := by
  induction fuel generalizing B pos val remaining with
  | zero => exact (if_neg (by omega)).symm
  | succ fuel ih =>
    simp only [writeLoop]
    split
    · exact (if_neg (by omega)).symm
    · next hne =>
      obtain ⟨hpos, hle, hbyte⟩ := chunkWidth_bounds hne pos
      rw [ih (by omega) (by rw [List.length_set]; omega), bufBit_writeRound hbyte (by omega), Nat.testBit_shiftRight]
      by_cases hround : pos ≤ q ∧ q < pos + chunkWidth pos remaining
      · rw [if_neg (by omega), if_pos hround, if_pos (by omega)]
      · rw [if_neg hround]
        by_cases hrest : pos + chunkWidth pos remaining ≤ q ∧ q < pos + remaining
        · rw [if_pos (by omega), if_pos (by omega),
            show chunkWidth pos remaining + (q - (pos + chunkWidth pos remaining)) = q - pos by omega]
        · rw [if_neg (by omega), if_neg (by omega)]

section
variable {B : List Byte} {o n : Nat} (hfit : o + n ≤ 8 * B.length)
include hfit

/-- A bit write that fits puts the bits of the value into its field and leaves the others (42_bit_buffer.md R140). -/
theorem bufBit_writeBits (v q : Nat) :
    bufBit (writeBits B o v n) q = if o ≤ q ∧ q < o + n then v.testBit (q - o) else bufBit B q :=
  bufBit_writeLoop (Nat.le_refl n) hfit v q

/-- A bit write that fits leaves every byte that holds no bit of its field (42_bit_buffer.md R145 item 5). -/
theorem writeBits_getElem?_of_untouched {i : Nat} (hi : ¬ (o / 8 ≤ i ∧ i < o / 8 + touchedCount o n)) (v : Nat) :
    (writeBits B o v n)[i]? = B[i]? := by
  refine getElem?_eq_of_bufBit_eq (writeBits_length B o v n) fun j hj => ?_
  rw [bufBit_writeBits hfit, if_neg]
  simp only [touchedCount] at hi
  split at hi <;> omega

/-- 42_bit_buffer.md R145 item 1. -/
theorem readBits_writeBits (v : Nat) : readBits (writeBits B o v n) o n = v % 2 ^ n := by
  refine Nat.eq_of_testBit_eq fun i => ?_
  rw [readBits_testBit, Nat.testBit_mod_two_pow, bufBit_writeBits hfit]
  by_cases hi : i < n
  · rw [if_pos (by omega), Nat.add_sub_cancel_left]
  · simp only [hi, decide_false, Bool.false_and]

end

/-- 42_bit_buffer.md R145 item 3: a bit is in one of the two fields or in neither. -/
theorem writeBits_comm {B : List Byte} {o₁ n₁ o₂ n₂ : Nat} (h₁ : o₁ + n₁ ≤ 8 * B.length) (h₂ : o₂ + n₂ ≤ 8 * B.length)
    (hdisj : o₁ + n₁ ≤ o₂ ∨ o₂ + n₂ ≤ o₁) (v₁ v₂ : Nat) :
    writeBits (writeBits B o₁ v₁ n₁) o₂ v₂ n₂ = writeBits (writeBits B o₂ v₂ n₂) o₁ v₁ n₁ := by
  refine eq_of_bufBit_eq (by simp only [writeBits_length]) fun q => ?_
  rw [bufBit_writeBits (by rwa [writeBits_length]), bufBit_writeBits h₁,
    bufBit_writeBits (by rwa [writeBits_length]), bufBit_writeBits h₂]
  by_cases hq : o₁ ≤ q ∧ q < o₁ + n₁
  · rw [if_neg (by omega), if_pos hq, if_pos hq]
  · rw [if_neg hq, if_neg hq]

/-! ### Bit reads -/

/-- A bit read answers a value of `n` bits (42_bit_buffer.md R141). -/
theorem readBits_lt (B : List Byte) (o n : Nat) : readBits B o n < 2 ^ n := by
  refine Nat.lt_pow_two_of_testBit _ fun i hi => ?_
  rw [readBits_testBit, decide_eq_false (Nat.not_lt.2 hi), Bool.false_and]

/-- 42_bit_buffer.md R145 item 4: a bit is read by the first read or by the second. -/
theorem readBits_add (B : List Byte) (o n₁ n₂ : Nat) :
    readBits B o (n₁ + n₂) = readBits B o n₁ ||| (readBits B (o + n₁) n₂ <<< n₁) := by
  refine Nat.eq_of_testBit_eq fun i => ?_
  rw [Nat.testBit_or, Nat.testBit_shiftLeft, readBits_testBit, readBits_testBit, readBits_testBit]
  by_cases hi : i < n₁
  · simp [hi, show ¬ n₁ ≤ i by omega, show i < n₁ + n₂ by omega]
  · simp [hi, show n₁ ≤ i by omega, show i - n₁ < n₂ ↔ i < n₁ + n₂ by omega, show o + n₁ + (i - n₁) = o + i by omega]

end Sys2Proof.Machine
end

section
/-! What WRBITS and RDBITS raise, stage and leave (42_bit_buffer.md R142 to R144). -/

namespace Sys2Proof.Machine

/-! ### The argument check -/

/-- Both commands raise what the argument check raises. -/
theorem State.effect_of_bitCheck_error {s : State} {i : Instr} (hi : i = .wrbits ∨ i = .rdbits) {r : Report}
    (h : bitCheck s.bitOffset s.numBits s.bufLen = .error r) : s.effect i = .error r := by
  obtain rfl | rfl := hi
  · simp only [State.effect, wrbitsEffect, h]
  · simp only [State.effect, rdbitsEffect, h]

theorem exec_of_tooWide {s : State} {i : Instr} (hi : i = .wrbits ∨ i = .rdbits) (hn : 32 < s.numBits.toNat) :
    exec i s = .next (s.fail .illegalArg .none s.numBits 0#32) :=
  exec_of_effect_error (State.effect_of_bitCheck_error hi (bitCheck_of_tooWide hn _ _))

theorem exec_of_outOfBounds {s : State} {i : Instr} (hi : i = .wrbits ∨ i = .rdbits) (hn : s.numBits.toNat ≤ 32)
    (h : 8 * s.bufLen.toNat < s.bitOffset.toNat + s.numBits.toNat) :
    exec i s = .next (s.fail .bounds .none (BitVec.ofNat 32 (s.bitOffset.toNat + s.numBits.toNat)) 0#32) := by
  rw [exec_of_effect_error (State.effect_of_bitCheck_error hi (bitCheck_of_outOfBounds hn h)), ← BitVec.ofInt_natCast]
  rfl

/-! ### Stores of bytes of BUF -/

theorem State.byteAt_setMem_storeBytes (s : State) (a : Nat) {bs : List Byte} {k : Nat} (hk : k < bs.length) :
    (s.setMem (Memory.storeBytes s.mem a bs)).byteAt (a + k) = bs[k] := by
  rw [State.byteAt, State.setMem_mem, Memory.lookup_storeBytes, if_pos ⟨by omega, by omega⟩, Nat.add_sub_cancel_left,
    List.getElem?_eq_getElem hk, Option.getD_some]

/-- Storing the bytes from `i` on in which `B` may differ from BUF makes BUF hold `B`. -/
theorem State.bufBytes_setMem_storeBytes {s : State} {B : List Byte} {len i c : Nat} (hlen : B.length = len)
    (hframe : ∀ j, ¬ (i ≤ j ∧ j < i + c) → B[j]? = (s.bufBytes len)[j]?) :
    (s.setMem (Memory.storeBytes s.mem (bufAddr i) ((B.drop i).take c))).bufBytes len = B := by
  subst hlen
  refine List.ext_getElem (State.bufBytes_length _ _) fun j _ hj => ?_
  simp only [State.bufBytes, List.getElem_map, List.getElem_range, State.bufByte]
  by_cases hin : i ≤ j ∧ j < i + c
  · have hslice : j - i < ((B.drop i).take c).length := by
      rw [List.length_take, List.length_drop]
      omega
    rw [show bufAddr j = bufAddr i + (j - i) by simp only [bufAddr]; omega, s.byteAt_setMem_storeBytes _ hslice,
      List.getElem_take, List.getElem_drop]
    simp only [Nat.add_sub_cancel' hin.1]
  · rw [s.byteAt_setMem_storeBytes_of_outside (by rw [List.length_take]; simp only [bufAddr]; omega)]
    have hj' := hframe j hin
    rw [List.getElem?_eq_getElem hj, List.getElem?_eq_getElem (by rwa [State.bufBytes_length])] at hj'
    simpa [State.bufBytes, State.bufByte] using hj'.symm

/-! ### What the commands stage where the check passes -/

section
variable {s : State} (hn : s.numBits.toNat ≤ 32) (hfit : s.bitOffset.toNat + s.numBits.toNat ≤ 8 * s.bufLen.toNat)
include hn hfit

/-- WRBITS stages a memory in which BUF[0..L-1] is what `writeBits` makes of it (42_bit_buffer.md R143). -/
theorem wrbitsEffect_of_inBounds :
    ∃ m, wrbitsEffect s = .ok (s.setMem m) ∧
      (s.setMem m).bufBytes s.bufLen.toNat =
        writeBits (s.bufBytes s.bufLen.toNat) s.bitOffset.toNat s.bitval.toNat s.numBits.toNat := by
  refine ⟨_, by rw [wrbitsEffect, bitCheck_of_inBounds hn hfit], ?_⟩
  refine State.bufBytes_setMem_storeBytes (by rw [writeBits_length, State.bufBytes_length]) fun j hj => ?_
  exact writeBits_getElem?_of_untouched (by rwa [State.bufBytes_length]) hj _

theorem exec_rdbits_of_inBounds :
    exec .rdbits s = .next
      (s.setBitval (zext32 (readBits (s.bufBytes s.bufLen.toNat) s.bitOffset.toNat s.numBits.toNat))).succeed :=
  exec_of_effect_ok (i := .rdbits) (by simp only [State.effect, rdbitsEffect, bitCheck_of_inBounds hn hfit])

end

/-- The bits of a number widened to a word. -/
theorem zext32_getLsbD {v n : Nat} (hv : v < 2 ^ n) (hn : n ≤ 32) (k : Nat) : (zext32 v).getLsbD k = v.testBit k := by
  have hlt : v < 2 ^ 32 := hv.trans_le (Nat.pow_le_pow_right (by decide) hn)
  rw [BitVec.getLsbD, zext32_toNat_of_lt hlt]

end Sys2Proof.Machine
end

section
/-! The statements of 42_bit_buffer.md. -/

namespace Sys2Proof.Machine

/-- Settles O14, by what the loop leaves in each bit; without a bit to write it has no round. -/
theorem writeBitsIsBitwise : Obligations.WriteBitsIsBitwise := by
  refine fun B o v n _ _ hfit => ⟨writeBits_length B o v n, fun q _ => bufBit_writeBits hfit v q, ?_⟩
  rintro rfl
  rfl

/-- Settles O15, by what the loop has read after its last round. -/
theorem readBitsIsBitwise : Obligations.ReadBitsIsBitwise := fun B o n _ _ =>
  ⟨readBits_lt B o n, readBits_testBit B o n⟩

/-- Settles O16, each law bit by bit; the bytes touched are those that hold a bit of the field. -/
theorem bitFieldLaws : Obligations.BitFieldLaws := by
  refine ⟨fun B o v n _ hfit => readBits_writeBits hfit v,
    fun B o₁ v₁ n₁ o₂ v₂ n₂ _ _ h₁ h₂ hdisj => writeBits_comm h₁ h₂ hdisj v₁ v₂,
    fun B o n₁ n₂ _ _ => readBits_add B o n₁ n₂, fun B o v n i hpos hn hfit => ⟨fun hi => ?_, by omega⟩⟩
  refine writeBits_getElem?_of_untouched hfit ?_ v
  rw [touchedCount, if_neg (by omega)]
  omega

/-- Settles O17: the check raises the errors; where it passes, BUF becomes what `writeBits` makes of it. -/
theorem wrbitsCommand : Obligations.WrbitsCommand := by
  refine ⟨decode_encode .wrbits, fun s => ⟨exec_of_tooWide (.inl rfl), exec_of_outOfBounds (.inl rfl),
    fun hn hfit => ?_⟩⟩
  obtain ⟨m, hm, hbuf⟩ := wrbitsEffect_of_inBounds hn hfit
  refine ⟨_, exec_of_effect_ok (i := .wrbits) hm, rfl, fun q hq => ?_,
    fun a ha => (wrbitsEffect_byteAt hm ha : (s.setMem m).byteAt a = s.byteAt a)⟩
  calc (s.setMem m).bufBit q = bufBit ((s.setMem m).bufBytes s.bufLen.toNat) q := (State.bufBit_bufBytes _ hq).symm
    _ = _ := by rw [hbuf, bufBit_writeBits (by rwa [State.bufBytes_length]), s.bufBit_bufBytes hq]; rfl

/-- Settles O18: the check raises the errors; where it passes, BITVAL becomes what `readBits` answers. -/
theorem rdbitsCommand : Obligations.RdbitsCommand := by
  refine ⟨decode_encode .rdbits, fun s => ⟨exec_of_tooWide (.inr rfl), exec_of_outOfBounds (.inr rfl),
    fun hn hfit => ⟨_, exec_rdbits_of_inBounds hn hfit, fun k => ?_⟩⟩⟩
  rw [zext32_getLsbD (readBits_lt _ _ _) hn, readBits_testBit]
  by_cases hk : k < s.numBits.toNat
  · rw [s.bufBit_bufBytes (by omega)]
  · simp only [hk, decide_false, Bool.false_and]

/-- Settles O19: after WRBITS, RDBITS with the same operands reads from what `writeBits` left. -/
theorem wrbitsThenRdbitsReadsBack : Obligations.WrbitsThenRdbitsReadsBack := by
  intro s hn hfit
  obtain ⟨m, hm, hbuf⟩ := wrbitsEffect_of_inBounds hn hfit
  refine ⟨_, _, exec_of_effect_ok (i := .wrbits) hm, exec_rdbits_of_inBounds (s := (s.setMem m).succeed) hn hfit, rfl,
    ?_⟩
  have hread : readBits ((s.setMem m).bufBytes s.bufLen.toNat) s.bitOffset.toNat s.numBits.toNat =
      s.bitval.toNat % 2 ^ s.numBits.toNat := by
    rw [hbuf, readBits_writeBits (by rwa [State.bufBytes_length])]
  exact congrArg zext32 hread

end Sys2Proof.Machine
end

section
/-! The byte array that `packMultiple` makes, entry by entry (43_bulk_bitstream.md R160, R161). -/

namespace Sys2Proof.Machine

/-! ### Byte arrays -/

theorem bufBit_replicate_zero (n q : Nat) : bufBit (List.replicate n 0#8) q = false := by
  simp only [bufBit, List.getD_eq_getElem?_getD, List.getElem?_replicate]
  split <;> simp

/-- A bit read answers the number of `n` bits whose bits it reads. -/
theorem readBits_eq_of_testBit {B : List Byte} {o n p : Nat} (hp : p < 2 ^ n)
    (h : ∀ k < n, p.testBit k = bufBit B (o + k)) : readBits B o n = p := by
  refine Nat.eq_of_testBit_eq fun k => ?_
  rw [readBits_testBit]
  by_cases hk : k < n
  · rw [h k hk, decide_eq_true hk, Bool.true_and]
  · rw [decide_eq_false hk, Bool.false_and,
      Nat.testBit_lt_two_pow (hp.trans_le (Nat.pow_le_pow_right (by decide) (Nat.not_lt.1 hk)))]

/-! ### The loop -/

theorem packLoop_cons_of_pack32 {c : Coord} {i v : Nat} (h : pack32 c i = .ok v) (cs : List Coord) (B : List Byte) :
    packLoop (c :: cs) i B = packLoop cs (i + 1) (writeBits B (17 * i) v 17) := by
  simp only [packLoop, h]

/-- A loop that ends well encoded its first position and went on from there. -/
theorem packLoop_cons_ok {c : Coord} {cs : List Coord} {i : Nat} {B B' : List Byte}
    (h : packLoop (c :: cs) i B = .ok B') :
    ∃ v, pack32 c i = .ok v ∧ packLoop cs (i + 1) (writeBits B (17 * i) v 17) = .ok B' := by
  rcases hc : pack32 c i with r | v
  · simp only [packLoop, hc] at h
    cases h
  · exact ⟨v, rfl, packLoop_cons_of_pack32 hc cs B ▸ h⟩

theorem packLoop_of_valid {cs : List Coord} (h : ∀ c ∈ cs, c.valid) (i : Nat) (B : List Byte) :
    ∃ B', packLoop cs i B = .ok B' := by
  induction cs generalizing i B with
  | nil => exact ⟨B, rfl⟩
  | cons c cs ih =>
    obtain ⟨hc, hcs⟩ := List.forall_mem_cons.1 h
    rw [packLoop_cons_of_pack32 (pack32_of_valid hc i)]
    exact ih hcs _ _

/-- The loop raises at the first position that is not valid (43_bulk_bitstream.md R161). -/
theorem packLoop_of_firstBad {cs : List Coord} {j : Nat} (hj : j < cs.length)
    (hvalid : ∀ k (hk : k < j), (cs[k]'(hk.trans hj)).valid) {f : FieldCode} {v : Int}
    (hbad : cs[j].firstBad = some (f, v)) (i : Nat) (B : List Byte) :
    packLoop cs i B = .error (.range f v (i + j)) := by
  induction cs generalizing i j B with
  | nil => cases hj
  | cons c cs ih =>
    cases j with
    | zero => simp only [packLoop, pack32_of_firstBad (show c.firstBad = some (f, v) from hbad), Nat.add_zero]
    | succ j =>
      have hc : c.valid := hvalid 0 (Nat.succ_pos j)
      rw [packLoop_cons_of_pack32 (pack32_of_valid hc i), show i + (j + 1) = i + 1 + j by omega]
      exact ih (Nat.lt_of_succ_lt_succ hj) (fun k hk => hvalid (k + 1) (Nat.succ_lt_succ hk)) hbad _ _

/-- The loop leaves every bit alone that belongs to no entry that it writes. -/
theorem packLoop_frame {cs : List Coord} {i : Nat} {B B' : List Byte} (h : packLoop cs i B = .ok B')
    (hfit : 17 * (i + cs.length) ≤ 8 * B.length) {q : Nat} (hq : q < 17 * i ∨ 17 * (i + cs.length) ≤ q) :
    bufBit B' q = bufBit B q := by
  induction cs generalizing i B with
  | nil => cases h; rfl
  | cons c cs ih =>
    obtain ⟨v, -, hrest⟩ := packLoop_cons_ok h
    rw [List.length_cons] at hfit hq
    rw [ih hrest (by rw [writeBits_length]; omega) (by omega), bufBit_writeBits (by omega), if_neg (by omega)]

/-- The 17 bits of each entry that the loop writes are the 32-bit form of its position: its own write puts them there, and
the writes of the later entries leave them alone. -/
theorem packLoop_entry {cs : List Coord} {i : Nat} {B B' : List Byte} (h : packLoop cs i B = .ok B')
    (hfit : 17 * (i + cs.length) ≤ 8 * B.length) {j : Nat} (hj : j < cs.length) :
    pack32 cs[j] (i + j) = .ok (readBits B' (17 * (i + j)) 17) := by
  induction cs generalizing i j B with
  | nil => cases hj
  | cons c cs ih =>
    obtain ⟨v, hv, hrest⟩ := packLoop_cons_ok h
    rw [List.length_cons] at hfit hj
    have hfit' : 17 * (i + 1 + cs.length) ≤ 8 * (writeBits B (17 * i) v 17).length := by
      rw [writeBits_length]
      omega
    cases j with
    | zero =>
      have hread : readBits B' (17 * i) 17 = v := by
        calc readBits B' (17 * i) 17 = readBits (writeBits B (17 * i) v 17) (17 * i) 17 :=
              readBits_congr fun q _ hq => packLoop_frame hrest hfit' (.inl (by omega))
          _ = v := by rw [readBits_writeBits (by omega), Nat.mod_eq_of_lt (pack32_ok_bounds hv).1]
      rw [Nat.add_zero, hread]
      exact hv
    | succ j =>
      rw [show i + (j + 1) = i + 1 + j by omega]
      exact ih hrest hfit' (Nat.lt_of_succ_lt_succ hj)

/-! ### The stream -/

/-- The bytes of a stream hold its entries, with at most seven bits of padding (43_bulk_bitstream.md R160). -/
theorem bulkBytes_bounds (n : Nat) : 17 * n ≤ 8 * bulkBytes n ∧ 8 * bulkBytes n ≤ 17 * n + 7 := by
  simp only [bulkBytes]
  omega

theorem packMultiple_of_valid {S : List Coord} (h : ∀ c ∈ S, c.valid) : ∃ B, packMultiple S = .ok B :=
  packLoop_of_valid h 0 _

theorem packMultiple_of_firstBad {S : List Coord} {i : Nat} (hi : i < S.length)
    (hvalid : ∀ k (hk : k < i), (S[k]'(hk.trans hi)).valid) {f : FieldCode} {v : Int}
    (hbad : S[i].firstBad = some (f, v)) : packMultiple S = .error (.range f v i) := by
  rw [packMultiple, packLoop_of_firstBad hi hvalid hbad, Nat.zero_add]

section
variable {S : List Coord} {B : List Byte} (h : packMultiple S = .ok B)
include h

theorem packMultiple_entry {i : Nat} (hi : i < S.length) : pack32 S[i] i = .ok (readBits B (17 * i) 17) := by
  have hentry := packLoop_entry h (by rw [List.length_replicate, Nat.zero_add]; exact (bulkBytes_bounds _).1) hi
  rwa [Nat.zero_add] at hentry

/-- No entry reaches the padding, which stays as the array began: zero. -/
theorem packMultiple_padding {q : Nat} (hq : 17 * S.length ≤ q) : bufBit B q = false := by
  rw [packLoop_frame h (by rw [List.length_replicate, Nat.zero_add]; exact (bulkBytes_bounds _).1)
    (.inr (by rwa [Nat.zero_add])), bufBit_replicate_zero]

end

end Sys2Proof.Machine
end

section
/-! What PACKM and UNPACKM raise, stage and leave (43_bulk_bitstream.md R163 to R165). -/

namespace Sys2Proof.Machine

/-! ### Errors -/

/-- Both commands check COUNT against POS_CAP first. -/
theorem exec_of_countOverPosCap {s : State} {i : Instr} (hi : i = .packm ∨ i = .unpackm)
    (h : s.posCap.toNat < s.count.toNat) : exec i s = .next (s.fail .capacity .none s.count 0#32) := by
  refine exec_of_effect_error (r := .capacity s.count) ?_
  obtain rfl | rfl := hi
  · simp only [State.effect, packmEffect, if_pos h]
  · simp only [State.effect, unpackmEffect, if_pos h]

theorem exec_packm_of_streamOverBufCap {s : State} (hpos : s.count.toNat ≤ s.posCap.toNat)
    (h : s.bufCap.toNat < bulkBytes s.count.toNat) :
    exec .packm s = .next (s.fail .capacity .none s.count 0#32) :=
  exec_of_effect_error (i := .packm) (r := .capacity s.count) (by
    simp only [State.effect, packmEffect, if_neg (Nat.not_lt.2 hpos), if_pos h])

theorem exec_unpackm_of_tooFewBits {s : State} (hpos : s.count.toNat ≤ s.posCap.toNat)
    (h : 8 * s.bufLen.toNat < 17 * s.count.toNat) :
    exec .unpackm s = .next (s.fail .bounds .none (BitVec.ofNat 32 (17 * s.count.toNat)) 0#32) := by
  have heff : s.effect .unpackm = .error (.bounds (17 * s.count.toNat)) := by
    simp only [State.effect, unpackmEffect, if_neg (Nat.not_lt.2 hpos), if_pos h]
  rw [exec_of_effect_error heff, ← BitVec.ofInt_natCast]
  rfl

section
variable {s : State} (hpos : s.count.toNat ≤ s.posCap.toNat) (hbuf : bulkBytes s.count.toNat ≤ s.bufCap.toNat)
include hpos hbuf

/-- Where both capacities suffice, PACKM raises what `packMultiple` raises. -/
theorem exec_packm_of_firstBad {i : Nat} {f : FieldCode} {v : Int} (hi : i < s.count.toNat)
    (hvalid : ∀ j, j < i → (s.posCoord j).valid) (hbad : (s.posCoord i).firstBad = some (f, v)) :
    exec .packm s = .next (s.fail .range f (u32 v) (zext32 i)) := by
  have hpack : packMultiple ((List.range s.count.toNat).map s.posCoord) = .error (.range f v i) :=
    packMultiple_of_firstBad (i := i) (by simpa using hi) (fun k hk => by simpa using hvalid k hk) (by simpa using hbad)
  exact exec_of_effect_error (i := .packm) (r := .range f v i) (by
    simp only [State.effect, packmEffect, if_neg (Nat.not_lt.2 hpos), if_neg (Nat.not_lt.2 hbuf), hpack])

theorem packmEffect_of_valid (hvalid : ∀ i, i < s.count.toNat → (s.posCoord i).valid) :
    ∃ u, packmEffect s = .ok u := by
  obtain ⟨B, hB⟩ := packMultiple_of_valid (S := (List.range s.count.toNat).map s.posCoord)
    (by simpa using hvalid)
  rw [packmEffect, if_neg (Nat.not_lt.2 hpos), if_neg (Nat.not_lt.2 hbuf), hB]
  exact ⟨_, rfl⟩

end

/-! ### What PACKM leaves -/

/-- Storing all of BUF[0..L-1] makes BUF hold what was stored. -/
theorem State.bufBytes_setMem_storeAll (s : State) (B : List Byte) :
    (s.setMem (Memory.storeBytes s.mem (bufAddr 0) B)).bufBytes B.length = B := by
  have hstore := State.bufBytes_setMem_storeBytes (s := s) (B := B) (i := 0) (c := B.length) rfl fun j hj => by
    rw [List.getElem?_eq_none (by omega), List.getElem?_eq_none (by rw [State.bufBytes_length]; omega)]
  rwa [List.drop_zero, List.take_length] at hstore

/-- A PACKM that succeeds changes memory and BUF_LEN only (43_bulk_bitstream.md R163). -/
theorem packmEffect_eq {s u : State} (h : packmEffect s = .ok u) :
    u = { s with mem := u.mem, bufLen := zext32 (bulkBytes s.count.toNat) } := by
  obtain ⟨-, -, B, -, rfl⟩ := packmEffect_ok h
  rfl

/-- A PACKM that succeeds leaves the stream of its positions in BUF[0..BUF_LEN-1]. -/
theorem packmEffect_stream {s u : State} (h : packmEffect s = .ok u) :
    packMultiple ((List.range s.count.toNat).map s.posCoord) = .ok (u.bufBytes u.bufLen.toNat) := by
  obtain ⟨-, hbuf, B, hB, rfl⟩ := packmEffect_ok h
  have hlen : (zext32 (bulkBytes s.count.toNat)).toNat = B.length := by
    rw [zext32_toNat_of_lt (hbuf.trans_lt s.bufCap.isLt), packMultiple_length hB, List.length_map, List.length_range]
  rw [State.setBufLen_bufLen, hlen, hB]
  exact congrArg Except.ok (s.bufBytes_setMem_storeAll B).symm

/-- After a PACKM that ended without an error the block holds the stream of the positions, of which POS has room for that
many; COUNT and POS_CAP are as they were. -/
theorem exec_packm_noError {s t : State} (h : exec .packm s = .next t) (herr : t.err = false) :
    packMultiple ((List.range s.count.toNat).map s.posCoord) = .ok (t.bufBytes t.bufLen.toNat) ∧
      s.count.toNat ≤ t.posCap.toNat ∧ t.count = s.count ∧ t.posCap = s.posCap := by
  obtain ⟨u, hu, rfl⟩ := exec_next_of_noError h herr
  have hstream := packmEffect_stream hu
  obtain ⟨hpos, -, B, -, rfl⟩ := packmEffect_ok hu
  exact ⟨hstream, hpos, rfl, rfl⟩

/-! ### A block that holds the stream of positions of `s` -/

/-- The words of an entry that holds a valid position are those that UNPACKM gives the position. -/
theorem State.word_posCoord {s : State} {j : Nat} (h : (s.posCoord j).valid) {k : Nat} (hk : k < 3) :
    (s.posCoord j).word k = s.posWord j k := by
  obtain ⟨⟨hx, -⟩, ⟨hz, -⟩, -⟩ := h
  match k with
  | 0 => exact zext32_toNat_s32 hx
  | 1 => exact u32_s32 (s.posWord j 1)
  | 2 => exact zext32_toNat_s32 hz

section
variable {s t : State} {n : Nat}
  (h : packMultiple ((List.range n).map s.posCoord) = .ok (t.bufBytes t.bufLen.toNat))
include h

theorem bufLen_of_stream : t.bufLen.toNat = bulkBytes n := by
  simpa using packMultiple_length h

/-- Entry `i` of the stream is the 32-bit form of POS[i] of `s`. -/
theorem pack32_of_stream {i : Nat} (hi : i < n) :
    pack32 (s.posCoord i) i = .ok (readBits (t.bufBytes t.bufLen.toNat) (17 * i) 17) := by
  have hentry := packMultiple_entry h (i := i) (by simpa using hi)
  rwa [List.getElem_map, List.getElem_range] at hentry

/-- UNPACKM of no more positions than the stream holds gives them back, word by word. -/
theorem exec_unpackm_of_stream (hc : t.count.toNat ≤ n) (hpos : t.count.toNat ≤ t.posCap.toNat) :
    ∃ v, exec .unpackm t = .next v ∧ v.err = false ∧
      ∀ j k, j < t.count.toNat → k < 3 → v.posWord j k = s.posWord j k := by
  have hlen := bufLen_of_stream h
  have hbytes := (bulkBytes_bounds n).1
  have hv := unpackmEffect_of_fits hpos (by omega)
  refine ⟨_, exec_of_effect_ok (i := .unpackm) hv, rfl, fun j k hj hk => ?_⟩
  obtain ⟨hvalid, hpack⟩ := pack32_eq_ok_iff.1 (pack32_of_stream h (hj.trans_le hc))
  calc _ = (unpack32 (readBits (t.bufBytes t.bufLen.toNat) (17 * j) 17)).word k := unpackmEffect_posWord hv hj hk
    _ = (s.posCoord j).word k := by rw [← hpack, unpack32_packFields hvalid]
    _ = s.posWord j k := State.word_posCoord hvalid hk

end

end Sys2Proof.Machine
end

section
/-! The statements of 43_bulk_bitstream.md. -/

namespace Sys2Proof.Machine

/-- Settles O20: the stream of N positions has ceil(17 N / 8) bytes, and 17 N is a multiple of 8 exactly when N is. -/
theorem bitstreamSizeLaw : Obligations.BitstreamSizeLaw := by
  intro S hS
  obtain ⟨B, hB⟩ := packMultiple_of_valid hS
  have hlen : B.length = (17 * S.length + 7) / 8 := packMultiple_length hB
  exact ⟨B, hB, by omega⟩

/-- Settles O21: the checks raise the errors in their order; where they pass, BUF holds the stream that `packMultiple` makes. -/
theorem packmCommand : Obligations.PackmCommand := by
  refine ⟨decode_encode .packm, fun s => ⟨exec_of_countOverPosCap (.inl rfl), exec_packm_of_streamOverBufCap,
    fun hpos hbuf => ⟨fun i f v => exec_packm_of_firstBad hpos hbuf, fun hvalid => ?_⟩⟩⟩
  obtain ⟨u, hu⟩ := packmEffect_of_valid hpos hbuf hvalid
  have hstream := packmEffect_stream hu
  have hlen := bufLen_of_stream hstream
  have hbytes := (bulkBytes_bounds s.count.toNat).1
  refine ⟨_, exec_of_effect_ok (i := .packm) hu, congrArg State.succeed (packmEffect_eq hu), fun i k hi hk => ?_,
    fun q hq hq8 => ?_, fun a ha => (packmEffect_byteAt hu ha : u.byteAt a = s.byteAt a)⟩
  · obtain ⟨⟨hx, hz, -⟩, hpack⟩ := pack32_eq_ok_iff.1 (pack32_of_stream hstream hi)
    rw [← packFields_eq_sum hx hz, hpack, readBits_testBit, State.bufBit_bufBytes u (by omega), decide_eq_true hk,
      Bool.true_and]
    rfl
  · calc u.bufBit q = bufBit (u.bufBytes u.bufLen.toNat) q := (u.bufBit_bufBytes (hlen ▸ hq8)).symm
      _ = false := packMultiple_padding hstream (by simpa using hq)

/-- Settles O22: the checks raise the errors in their order; where they pass, the entry of POS[j] is the number whose bits are
the 17 bits of BUF from 17 j on, and its fields are remainders. -/
theorem unpackmCommand : Obligations.UnpackmCommand := by
  refine ⟨decode_encode .unpackm, fun s => ⟨exec_of_countOverPosCap (.inr rfl), exec_unpackm_of_tooFewBits,
    fun hpos hlen => ?_⟩⟩
  have hu := unpackmEffect_of_fits hpos hlen
  refine ⟨_, exec_of_effect_ok (i := .unpackm) hu, rfl, fun j p hj hp hbits => ?_,
    fun a ha => (unpackmEffect_byteAt hu ha : (s.setMem _).byteAt a = s.byteAt a)⟩
  have hread : readBits (s.bufBytes s.bufLen.toNat) (17 * j) 17 = p :=
    readBits_eq_of_testBit hp fun k hk => by rw [hbits k hk, s.bufBit_bufBytes (by omega)]
  have hword := fun k (hk : k < 3) => unpackmEffect_posWord hu hj hk
  rw [hread, unpack32_eq, show p / 256 % 512 = p / 256 by omega] at hword
  exact ⟨hword 0 (by decide), hword 1 (by decide), hword 2 (by decide)⟩

/-- Settles O23: PACKM leaves COUNT as it was, so UNPACKM gives back all that PACKM packed. -/
theorem bulkRoundTrip : Obligations.BulkRoundTrip := by
  intro s t h herr
  obtain ⟨hstream, hpos, hcount, -⟩ := exec_packm_noError h herr
  rw [← hcount] at hstream hpos ⊢
  exact exec_unpackm_of_stream hstream le_rfl hpos

/-- Settles O24: one entry more needs 17 bits more, and the padding has at most seven. -/
theorem wrongCountAfterPackm : Obligations.WrongCountAfterPackm := by
  intro s t c h herr
  obtain ⟨hstream, hpos, -, hcap⟩ := exec_packm_noError h herr
  refine ⟨fun hlt hle => ?_, fun hlt => ?_⟩
  · have hlen := bufLen_of_stream hstream
    have hbytes := (bulkBytes_bounds s.count.toNat).2
    exact exec_unpackm_of_tooFewBits (s := { t with count := c }) (hcap ▸ hle)
      (show 8 * t.bufLen.toNat < 17 * c.toNat by omega)
  · exact exec_unpackm_of_stream (t := { t with count := c }) hstream hlt.le (hlt.le.trans hpos)

/-- Settles O25: RDBITS answers the 17 bits of entry i, which are the 32-bit form of its position. -/
theorem entryReadsAlone : Obligations.EntryReadsAlone := by
  intro s t i o h herr hi ho
  obtain ⟨hstream, -⟩ := exec_packm_noError h herr
  have hlen := bufLen_of_stream hstream
  have hbytes := (bulkBytes_bounds s.count.toNat).1
  have hread := exec_rdbits_of_inBounds (s := { t with bitOffset := o, numBits := 17#32 })
    (show (17#32).toNat ≤ 32 by decide) (show o.toNat + 17 ≤ 8 * t.bufLen.toNat by omega)
  refine ⟨_, _, hread, rfl, pack32_of_stream hstream hi, ?_⟩
  rw [← ho]
  rfl

end Sys2Proof.Machine
end

section
/-! What the last report cannot influence, and where a step stops (60_exceptions.md R200, R211, R213). -/

namespace Sys2Proof.Machine

/-! ### The report that a command finds -/

/-- `s` with another report in STATUS, ERR_VALUE and ERR_INDEX; ERR and FAULT_SEEN are given apart, so that they need not
agree with the cause. -/
def State.setReport (s : State) (e b : Bool) (r : Report) : State :=
  { s with err := e, cause := r.cause, field := r.field, faultSeen := b, errValue := r.value, errIndex := r.index }

section
variable (s : State) (e b : Bool) (r : Report)

/-! What the commands read is as before. -/

@[simp] theorem State.setReport_bitOffset : (s.setReport e b r).bitOffset = s.bitOffset := rfl
@[simp] theorem State.setReport_numBits : (s.setReport e b r).numBits = s.numBits := rfl
@[simp] theorem State.setReport_count : (s.setReport e b r).count = s.count := rfl
@[simp] theorem State.setReport_bufLen : (s.setReport e b r).bufLen = s.bufLen := rfl
@[simp] theorem State.setReport_bufCap : (s.setReport e b r).bufCap = s.bufCap := rfl
@[simp] theorem State.setReport_posCap : (s.setReport e b r).posCap = s.posCap := rfl
@[simp] theorem State.setReport_inputCoord : (s.setReport e b r).inputCoord = s.inputCoord := rfl
@[simp] theorem State.setReport_posCoord : (s.setReport e b r).posCoord = s.posCoord := rfl

/-- No command reads the report: it stages the same writes, or raises the same error, whatever the report
(60_exceptions.md R211). -/
theorem State.effect_setReport (i : Instr) :
    (s.setReport e b r).effect i = (s.effect i).map (·.setReport e b r) := by
  cases i with
  | unpack32 | unpack16h => rfl
  | pack32 =>
    simp only [State.effect, pack32Effect, State.setReport_inputCoord]
    cases pack32 s.inputCoord 0 <;> rfl
  | pack16h =>
    simp only [State.effect, pack16hEffect, State.setReport_inputCoord]
    cases packHalf s.inputCoord <;> rfl
  | wrbits =>
    simp only [State.effect, wrbitsEffect, State.setReport_bitOffset, State.setReport_numBits, State.setReport_bufLen]
    cases bitCheck s.bitOffset s.numBits s.bufLen <;> rfl
  | rdbits =>
    simp only [State.effect, rdbitsEffect, State.setReport_bitOffset, State.setReport_numBits, State.setReport_bufLen]
    cases bitCheck s.bitOffset s.numBits s.bufLen <;> rfl
  | packm =>
    by_cases hpos : s.posCap.toNat < s.count.toNat
    · simp [State.effect, packmEffect, hpos, Except.map]
    · by_cases hbuf : s.bufCap.toNat < bulkBytes s.count.toNat
      · simp [State.effect, packmEffect, hpos, hbuf, Except.map]
      · simp only [State.effect, packmEffect, State.setReport_count, State.setReport_posCap, State.setReport_bufCap,
          State.setReport_posCoord, hpos, hbuf, ↓reduceIte]
        cases packMultiple ((List.range s.count.toNat).map s.posCoord) <;> rfl
  | unpackm =>
    by_cases hpos : s.posCap.toNat < s.count.toNat
    · simp [State.effect, unpackmEffect, hpos, Except.map]
    · by_cases hlen : 8 * s.bufLen.toNat < 17 * s.count.toNat
      · simp [State.effect, unpackmEffect, hpos, hlen, Except.map]
      · simp only [State.effect, unpackmEffect, State.setReport_count, State.setReport_posCap,
          State.setReport_bufLen, hpos, hlen, ↓reduceIte]
        rfl

end

/-- A command's end overwrites the report that it found, but for FAULT_SEEN, which adds the new ERR to what it was
(10_state.md R28, 60_exceptions.md R211). -/
theorem State.finish_setReport (s : State) (res : Except Report State) (e b : Bool) (r : Report) :
    (s.setReport e b r).finish (res.map (·.setReport e b r)) =
      { s.finish res with faultSeen := b || (s.finish res).err } := by
  cases res <;> rfl

/-! ### Steps that stop -/

/-- The host address of an access. -/
def Access.addr : Access → Nat
  | .read addr _ => addr
  | .write addr _ _ => addr

/-- An access outside the window faults (log 11). -/
theorem State.doAccess_of_outside {s : State} {a : Access} (h : a.addr < s.blockBase ∨ s.blockBase + 2 ^ 32 ≤ a.addr) :
    s.doAccess a = .fault .outsideWindow := by
  cases a with
  | read addr size => rw [State.doAccess, State.locate_of_outside (addr := addr) h]
  | write addr size v => rw [State.doAccess, State.locate_of_outside (addr := addr) h]

theorem State.locate_fault {s : State} {addr size : Nat} {f : Fault} (h : s.locate addr size = .fault f) :
    addr < s.blockBase ∨ s.blockBase + 2 ^ 32 ≤ addr := by
  by_contra hin
  rw [State.locate, if_pos (by omega)] at h
  exact s.placeAt_ne_fault _ size f h

/-- Only an access outside the window faults (log 11). -/
theorem State.doAccess_fault {s : State} {a : Access} {f : Fault} (h : s.doAccess a = .fault f) :
    a.addr < s.blockBase ∨ s.blockBase + 2 ^ 32 ≤ a.addr := by
  cases a with
  | read addr size =>
    rcases hl : s.locate addr size with p | g | r <;> simp only [State.doAccess, hl, reduceCtorEq] at h
    exact State.locate_fault hl
  | write addr size v =>
    rcases hl : s.locate addr size with p | g | r <;> simp only [State.doAccess, hl, reduceCtorEq] at h
    · split at h <;> cases h
    · exact State.locate_fault hl

/-- Only an access within the window is refused (20_memory.md R64). -/
theorem State.doAccess_refused {s : State} {a : Access} {r : Refusal} (h : s.doAccess a = .refused r) :
    s.blockBase ≤ a.addr ∧ a.addr < s.blockBase + 2 ^ 32 := by
  by_contra hout
  rw [State.doAccess_of_outside (by omega)] at h
  cases h

theorem State.exists_blockTurn_eq_next (s : State) : ∃ t, s.blockTurn = .next t := by
  obtain ⟨-, h⟩ | ⟨_, _, -, -, h⟩ | ⟨_, _, -, -, h⟩ := s.blockTurn_cases <;> exact ⟨_, h⟩

/-- A turn of the host stops only if its operation is an access. -/
theorem State.hostTurn_stops {s : State} (h : ∀ t, s.hostTurn ≠ .next t) :
    ∃ a rest, s.hostOps = .access a :: rest := by
  rcases ho : s.hostOps with _ | ⟨a | _, rest⟩
  · exact absurd (by simp only [State.hostTurn, ho]) (h s)
  · exact ⟨a, rest, rfl⟩
  · exact absurd (State.hostTurn_of_wait ho) (h _)

/-- An operation that is an access is a read or a write at its address. -/
theorem hostOps_read_or_write {ops rest : List HostOp} {a : Access} (h : ops = .access a :: rest) :
    ∃ size v, ops = .access (.read a.addr size) :: rest ∨ ops = .access (.write a.addr size v) :: rest := by
  cases a with
  | read addr size => exact ⟨size, 0#32, .inl h⟩
  | write addr size v => exact ⟨size, v, .inr h⟩

/-- A step stops only in the host's turn, on an access: the block's turn and a reset always go on (60_exceptions.md
R200). -/
theorem step_stops {s : State} (h : ∀ t, step s ≠ .next t) :
    s.turn = .host ∧ ∃ a size v rest,
      (s.hostOps = .access (.read a.addr size) :: rest ∨ s.hostOps = .access (.write a.addr size v) :: rest) ∧
        step s = (s.popTurn.setHostOps rest).doAccess a := by
  rcases ht : s.turn with _ | _ | _
  · obtain ⟨a, rest, ho⟩ := State.hostTurn_stops (s := s.popTurn) (by rwa [← step_of_host ht])
    obtain ⟨size, v, hops⟩ := hostOps_read_or_write ho
    exact ⟨rfl, a, size, v, rest, hops, step_of_access ht ho⟩
  · obtain ⟨t, hb⟩ := s.popTurn.exists_blockTurn_eq_next
    exact absurd ((step_of_block ht).trans hb) (h t)
  · exact absurd (step_of_reset ht) (h _)

end Sys2Proof.Machine
end

section
/-! The statements of 60_exceptions.md. -/

namespace Sys2Proof.Machine

/-- Settles O4: the word is one that does not decode, and the block's turn reports it. -/
theorem illegalWordRaisesIllegalCmd : Obligations.IllegalWordRaisesIllegalCmd := by
  intro s w ht hp hw
  obtain ⟨r, hr⟩ := (decodeInvertsEncode.2 w).2 hw
  rw [step_of_block ht, State.blockTurn_of_illegal (s := s.popTurn) hp hr]
  exact congrArg Host.Outcome.next (s.popTurn.complete_error (r := .illegalCmd w) nofun)

/-- Settles O27: a command succeeds with what it stages, which leaves FAULT_SEEN alone, or reports an error. -/
theorem everyCommandEndsInOneOfTwoWays : Obligations.EveryCommandEndsInOneOfTwoWays := by
  intro i s
  rcases he : s.effect i with r | u
  · have hcause : r.cause ≠ .none := of_decide_eq_true (State.effect_error_raised he).isError
    exact ⟨_, exec_of_effect_error he, rfl, .inr ⟨_, _, _, _, hcause, rfl⟩⟩
  · exact ⟨_, exec_of_effect_ok he, rfl,
      .inl ⟨rfl, rfl, rfl, rfl, rfl, (State.effect_ok_staged he).faultSeen⟩⟩

/-- Settles O30: a command neither reads the report it finds nor leaves any of it but FAULT_SEEN. -/
theorem reportsDoNotAccumulate : Obligations.ReportsDoNotAccumulate := by
  intro i s t e c f b v k h
  rw [exec_eq_finish, Host.Outcome.next.injEq] at h
  subst h
  change exec i (s.setReport e b ⟨c, f, v, k⟩) = _
  rw [exec_eq_finish, State.effect_setReport, State.finish_setReport]

/-- Settles O45: only an access of the host stops, and it faults outside the window and is refused inside. -/
theorem stopsOnlyOnAHostAccess : Obligations.StopsOnlyOnAHostAccess := by
  refine fun s => ⟨fun f h => ?_, fun r h => ?_⟩
  · obtain ⟨ht, a, size, v, rest, hops, hstep⟩ := step_stops (s := s) (by simp [h])
    have hout := State.doAccess_fault (hstep.symm.trans h)
    exact ⟨ht, a.addr, size, v, rest, hops, hout⟩
  · obtain ⟨ht, a, size, v, rest, hops, hstep⟩ := step_stops (s := s) (by simp [h])
    have hin := State.doAccess_refused (hstep.symm.trans h)
    exact ⟨ht, a.addr, size, v, rest, hops, hin⟩

end Sys2Proof.Machine
end

section
/-! Accesses while the block is busy, the run of polls up to the turn that ends a command, and the state after reset
(70_reset_and_hazards.md R240 to R247). -/

namespace Sys2Proof.Machine

/-! ### Reads -/

/-- A read of STATUS answers STATUS, busy or not (70_reset_and_hazards.md R246). -/
theorem State.readPlace_status (s : State) : s.readPlace (.reg .status) = s.note (.word s.statusWord) :=
  if_neg fun h => h.2 rfl

/-- While busy, a read of any place but STATUS answers a draw (70_reset_and_hazards.md R246; log 5). -/
theorem State.readPlace_of_busy {s : State} (hb : s.busy = true) {p : Place} (hp : p ≠ .reg .status) :
    s.readPlace p = (s.note (s.drawAt p)).countDraw :=
  if_pos ⟨hb, hp⟩

theorem State.busy_of_pending {s : State} {w : Word} (h : s.pending = some w) : s.busy = true := by
  rw [State.busy, h, Option.isSome_some]

theorem State.busy_of_noPending {s : State} (h : s.pending = none) : s.busy = false := by
  rw [State.busy, h, Option.isSome_none]

section
variable {s : State} {rest : List HostOp} {addr size : Nat} {p : Place} (ht : s.turn = .host)
  (hl : s.locate addr size = .next p)
include ht hl

/-- A read that reaches a place is a step that reads it. -/
theorem step_of_read (ho : s.hostOps = .access (.read addr size) :: rest) :
    step s = .next ((s.popTurn.setHostOps rest).readPlace p) := by
  rw [step_of_access ht ho]
  exact State.doAccess_read (s := s.popTurn.setHostOps rest) hl

/-- A write that reaches a place, while the block is busy, is refused. -/
theorem step_of_placeWrite_of_busy {v : Word} (hb : s.busy = true)
    (ho : s.hostOps = .access (.write addr size v) :: rest) : step s = .refused .writeWhileBusy := by
  rw [step_of_access ht ho]
  exact State.doAccess_write_of_busy (s := s.popTurn.setHostOps rest) hl hb v

end

/-! ### Polling -/

/-- The host's program only polls STATUS: by `wait` or by a 32-bit read (70_reset_and_hazards.md R247). -/
def State.OnlyPolls (s : State) : Prop :=
  ∀ op ∈ s.hostOps, op = .wait ∨ op = .access (.read (s.blockBase + 4) 4)

/-- The block, without the host agent and the schedule. -/
def State.blockPart (s : State) : State := { s with schedule := [], hostOps := [], noted := [] }

theorem State.eq_of_blockPart_eq {s u : State} (h : u.blockPart = s.blockPart) :
    u = { s with schedule := u.schedule, hostOps := u.hostOps, noted := u.noted } :=
  congrArg (fun b : State => { b with schedule := u.schedule, hostOps := u.hostOps, noted := u.noted }) h

theorem State.pending_eq_of_blockPart_eq {s u : State} (h : u.blockPart = s.blockPart) : u.pending = s.pending :=
  congrArg (·.pending) h

/-- What is left of a program that only polls only polls. -/
theorem State.OnlyPolls.of_subset {s u : State} (hs : s.OnlyPolls) (hu : u.blockPart = s.blockPart)
    (hops : u.hostOps ⊆ s.hostOps) : u.OnlyPolls := by
  intro op hop
  rw [show u.blockBase = s.blockBase from congrArg (·.blockBase) hu]
  exact hs op (hops hop)

/-- A turn of a host that only polls goes on, leaves the block alone and takes one turn off the schedule. -/
theorem State.OnlyPolls.step_of_host {s : State} (hs : s.OnlyPolls) (ht : s.turn = .host) :
    ∃ u, step s = .next u ∧ u.blockPart = s.blockPart ∧ u.hostOps ⊆ s.hostOps ∧ u.schedule = s.schedule.tail := by
  rcases ho : s.hostOps with _ | ⟨op, rest⟩
  · exact ⟨_, (idleTurnsChangeNothing s).2 ht ho, rfl, by simp [ho], rfl⟩
  · obtain rfl | rfl := hs op (by simp [ho])
    · refine ⟨_, waitPollsStatus s rest ht ho, rfl, ?_, rfl⟩
      dsimp only
      split
      · exact List.Subset.refl _
      · exact List.subset_cons_self _ _
    · have hstep := step_of_read ht (s.locate_reg .status) ho
      rw [State.readPlace_status] at hstep
      exact ⟨_, hstep, rfl, List.subset_cons_self _ _, rfl⟩

/-! ### Runs -/

/-- A run splits where it has come to after its first steps. -/
theorem run_add_of_run {n : Nat} {s u : State} (h : Host.Core.run core n s = .next u) (m : Nat) :
    Host.Core.run core (n + m) s = Host.Core.run core m u := by
  induction n generalizing s with
  | zero =>
    obtain rfl := Host.Outcome.next.inj h
    rw [Nat.zero_add]
  | succ n ih =>
    rcases hs : step s with t | f | r
    · rw [run_succ_of_next n hs] at h
      rw [Nat.succ_add, run_succ_of_next _ hs, ih h]
    · simp [Host.Core.run, show core.step s = .fault f from hs] at h
    · simp [Host.Core.run, show core.step s = .refused r from hs] at h

/-- A run of one more step is the run and then a step. -/
theorem run_succ_of_run {n : Nat} {s u t : State} (h : Host.Core.run core n s = .next u) (hu : step u = .next t) :
    Host.Core.run core (n + 1) s = .next t := by
  rw [run_add_of_run h, run_succ_of_next 0 hu]
  rfl

/-- While the host only polls a busy block, the schedule's turns of the host are used up and leave the block alone; then it is
the block's turn or that of a reset which the schedule names (70_reset_and_hazards.md R247; log 6). -/
theorem State.OnlyPolls.exists_run {s : State} (hs : s.OnlyPolls) (hb : s.busy = true) :
    ∃ n u, n ≤ s.schedule.length ∧ Host.Core.run core n s = .next u ∧ u.blockPart = s.blockPart ∧
      (u.turn = .block ∨ (u.turn = .reset ∧ Turn.reset ∈ s.schedule)) := by
  induction hsched : s.schedule generalizing s with
  | nil => exact ⟨0, s, Nat.le_refl _, rfl, rfl, .inl (State.turn_of_busy hsched hb)⟩
  | cons t rest ih =>
    have hturn : s.turn = t := by rw [State.turn, hsched]
    cases t with
    | host =>
      obtain ⟨v, hstep, hblock, hops, htail⟩ := hs.step_of_host hturn
      rw [hsched] at htail
      have hbusy : v.busy = true := by rw [State.busy, State.pending_eq_of_blockPart_eq hblock]; exact hb
      obtain ⟨n, u, hn, hrun, hu, hend⟩ := ih (hs.of_subset hblock hops) hbusy htail
      exact ⟨n + 1, u, Nat.succ_le_succ hn, (run_succ_of_next n hstep).trans hrun, hu.trans hblock,
        hend.imp_right fun ⟨hreset, hmem⟩ => ⟨hreset, List.mem_cons_of_mem _ hmem⟩⟩
    | block => exact ⟨0, s, Nat.zero_le _, rfl, rfl, .inl hturn⟩
    | reset => exact ⟨0, s, Nat.zero_le _, rfl, rfl, .inr ⟨hturn, List.mem_cons_self⟩⟩

/-! ### The turn that ends a command -/

/-- The block's turn goes on and leaves no command pending (10_state.md R43). -/
theorem exists_step_of_block {s : State} (ht : s.turn = .block) : ∃ t, step s = .next t ∧ t.pending = none := by
  obtain ⟨t, hb⟩ := s.popTurn.exists_blockTurn_eq_next
  exact ⟨t, (step_of_block ht).trans hb, State.blockTurn_pending hb⟩

/-- In the block's turn a step is the execution of the pending word. -/
theorem step_eq_runCommand {s : State} {w : Word} (ht : s.turn = .block) (hp : s.pending = some w) :
    step s = s.popTurn.runCommand w := by
  rw [step_of_block ht, State.blockTurn, State.popTurn_pending, hp]

/-! ### The state after reset -/

/-- After reset nothing is listed as written and BUF_LEN is 0 (70_reset_and_hazards.md R240). -/
theorem State.resetWith_storageOk {bufCap posCap : Word} (base : Nat) (h : paramsOk bufCap posCap = true) :
    (State.resetWith bufCap posCap base).storageOk :=
  ⟨h, Nat.zero_le _, nofun⟩

/-- The report after reset is the one that the reset event leaves (70_reset_and_hazards.md R240). -/
theorem State.resetWith_statusOk (bufCap posCap : Word) (base : Nat) : (State.resetWith bufCap posCap base).statusOk :=
  (State.resetWith bufCap posCap base).blockReset_statusOk

/-- The outputs after reset are those that the reset event leaves (70_reset_and_hazards.md R240). -/
theorem State.resetWith_outputsOk (bufCap posCap : Word) (base : Nat) : (State.resetWith bufCap posCap base).outputsOk :=
  (State.resetWith bufCap posCap base).blockReset_outputsOk

end Sys2Proof.Machine
end

section
/-! The statements of 70_reset_and_hazards.md. -/

namespace Sys2Proof.Machine

/-- Settles O40: a write that reaches a place is refused as BUSY, and within the window one that reaches none is refused too. -/
theorem writesWhileBusyAreRefused : Obligations.WritesWhileBusyAreRefused := by
  intro s addr size v rest ht hb ho
  refine ⟨fun p hl => step_of_placeWrite_of_busy ht hl hb ho, fun hle hlt => ?_⟩
  rcases hl : s.locate addr size with p | f | r
  · exact ⟨_, step_of_placeWrite_of_busy ht hl hb ho⟩
  · have hout := State.locate_fault hl
    omega
  · exact ⟨r, (step_of_refused ht v hl).2 ho⟩

/-- Settles O42: a read of STATUS notes STATUS, whose bit 0 is BUSY; a read of any other place notes a draw and counts it. -/
theorem readsWhileBusy : Obligations.ReadsWhileBusy := by
  intro s addr size p rest ht hb ho hl
  have hstep := step_of_read ht hl ho
  refine ⟨?_, fun hp => ⟨s.drawAt p, ?_⟩⟩
  · rintro rfl
    rw [State.readPlace_status] at hstep
    obtain ⟨hbit, -⟩ := statusWordLayout s
    exact ⟨hstep, hbit.trans hb⟩
  · rw [hstep, State.readPlace_of_busy (s := s.popTurn.setHostOps rest) hb hp]
    cases p <;> rfl

/-- Settles O48: the polls lead to the block's turn or to a reset of the schedule, and either leaves no command pending. -/
theorem pendingCommandCompletes : Obligations.PendingCommandCompletes := by
  intro s w hp hpolls
  obtain ⟨n, u, hn, hrun, hblock, hend⟩ := State.OnlyPolls.exists_run hpolls (State.busy_of_pending hp)
  refine ⟨?_, fun hreset => ?_⟩
  · have hlast : ∃ t, step u = .next t ∧ t.pending = none := by
      obtain hturn | ⟨hturn, -⟩ := hend
      · exact exists_step_of_block hturn
      · exact ⟨_, step_of_reset hturn, rfl⟩
    obtain ⟨t, hstep, ht⟩ := hlast
    exact ⟨n + 1, t, Nat.succ_le_succ hn, run_succ_of_run hrun hstep, State.busy_of_noPending ht⟩
  · have hturn : u.turn = .block := hend.resolve_right fun h => hreset h.2
    obtain ⟨t, hstep, ht⟩ := exists_step_of_block hturn
    have hpu : u.pending = some w := (State.pending_eq_of_blockPart_eq hblock).trans hp
    exact ⟨n, u, t, hn, hrun, State.eq_of_blockPart_eq hblock, hturn, (step_eq_runCommand hturn hpu).symm.trans hstep,
      run_succ_of_run hrun hstep, ht⟩

/-- Settles O49: in a reset turn the step is the reset event, field by field as stated. -/
theorem resetEvent : Obligations.ResetEvent := fun _ ht => step_of_reset ht

/-- Settles O50, by evaluating the one state it speaks of. -/
theorem resetStateValues : Obligations.ResetStateValues := by
  unfold Obligations.ResetStateValues
  decide

/-- Settles O55: no byte is listed, BUF_LEN is 0, and the registers are as the reset event leaves them; the parameters of
`State.reset` are legal. -/
theorem resetMeetsTheInvariants : Obligations.ResetMeetsTheInvariants :=
  ⟨fun bufCap posCap base => ⟨List.Pairwise.nil, State.resetWith_storageOk base,
      State.resetWith_statusOk bufCap posCap base, State.resetWith_outputsOk bufCap posCap base⟩,
    State.reset_mem_wf, State.resetWith_storageOk _ (by decide), State.resetWith_statusOk _ _ _,
    State.resetWith_outputsOk _ _ _⟩

end Sys2Proof.Machine
end
